-- ==== Sys2Proof/Word.lean ====
section
/-! DEFINITION. The two word types of the machine (00_scope.md R6): a byte and an address or pair. -/

namespace Sys2Proof

/-- `u8` of R11: a byte. -/
abbrev Byte := BitVec 8

/-- `u16` of R11: an address, a register pair, SP or PC. -/
abbrev Word := BitVec 16

end Sys2Proof
end

