-- ==== Sys2Proof/Config.lean ====
section
/-! DEFINITION. What the spec leaves to the caller of the machine (00_scope.md R7) and this model fixes or leaves free. -/

namespace Sys2Proof.Config

/-- `RESET_PC` of `State.reset`. DESIGN CHOICE (log 1): the spec gives no default (D14), its one program
example uses 0. `State.construct` takes any value. -/
def resetPc : Word := 0x0000#16

/-- What a byte of memory that is not listed reads as. DESIGN CHOICE (log 2): the spec leaves the initial
contents to the host (R431). Every contents can be listed, so a statement over all states is one over every
initial memory. -/
def unlistedByte : Byte := 0x00#8

/-- The byte the host's `PortIn` returns (R352, U6): a FREE VALUE of the number of reads made so far and the
port. It has no body, so nothing can be proved of it but that it is a byte (log 5). -/
opaque portInByte : Nat → Byte → Byte

end Sys2Proof.Config
end

