-- ==== Sys2Proof/Syntax.lean ====
section
/-! DEFINITION. The instructions of the machine as syntax: one constructor for every mnemonic of
spec/opcode_table.json, the row's operands as its arguments (30_encoding.md R83 to R88). -/

namespace Sys2Proof

/-- The seven 8-bit general registers (10_state.md R20). -/
inductive Reg8 where
  | b | c | d | e | h | l | a
deriving DecidableEq, Repr

/-- An 8-bit operand (R83): a register, or `M`, the memory byte at HL (R22). -/
inductive Operand8 where
  | reg (r : Reg8)
  | m
deriving DecidableEq, Repr

/-- The 16-bit operand of LXI, INX, DCX and DAD (R84). -/
inductive Pair where
  | bc | de | hl | sp
deriving DecidableEq, Repr

/-- The 16-bit operand of PUSH and POP (R84). -/
inductive StackPair where
  | bc | de | hl | psw
deriving DecidableEq, Repr

/-- The address pair of STAX and LDAX (R84, R168). -/
inductive IndexPair where
  | bc | de
deriving DecidableEq, Repr

/-- The ten undefined opcode bytes that run as NOP (R370, R371), each under its value. -/
inductive NopHole where
  | x08 | x10 | x18 | x20 | x28 | x30 | x38 | xDD | xED | xFD
deriving DecidableEq, Repr

/-- The eight conditions (R85). -/
inductive Cond where
  | nz | z | nc | c | po | pe | p | m
deriving DecidableEq, Repr

/-- One instruction with its operands. -/
inductive Instr where
  -- 41_nop_carry_incdec_adjust.md
  | nop
  | stc
  | cmc
  | inr (x : Operand8)
  | dcr (x : Operand8)
  | cma
  | daa
  -- 42_move_indirect.md
  | mov (dst src : Operand8)
  | stax (p : IndexPair)
  | ldax (p : IndexPair)
  -- 43_accumulator_alu_rotate.md
  | add (x : Operand8)
  | adc (x : Operand8)
  | sub (x : Operand8)
  | sbb (x : Operand8)
  | ana (x : Operand8)
  | xra (x : Operand8)
  | ora (x : Operand8)
  | cmp (x : Operand8)
  | rlc
  | rrc
  | ral
  | rar
  -- 44_stack_pair.md
  | push (p : StackPair)
  | pop (p : StackPair)
  | dad (p : Pair)
  | inx (p : Pair)
  | dcx (p : Pair)
  | xchg
  | xthl
  | sphl
  -- 45_immediate_direct.md
  | lxi (p : Pair) (d16 : Word)
  | mvi (x : Operand8) (d8 : Byte)
  | adi (d8 : Byte)
  | aci (d8 : Byte)
  | sui (d8 : Byte)
  | sbi (d8 : Byte)
  | ani (d8 : Byte)
  | xri (d8 : Byte)
  | ori (d8 : Byte)
  | cpi (d8 : Byte)
  | sta (a16 : Word)
  | lda (a16 : Word)
  | shld (a16 : Word)
  | lhld (a16 : Word)
  -- 46_control_transfer.md
  | jmp (a16 : Word)
  | pchl
  | jnz (a16 : Word)
  | jz (a16 : Word)
  | jnc (a16 : Word)
  | jc (a16 : Word)
  | jpo (a16 : Word)
  | jpe (a16 : Word)
  | jp (a16 : Word)
  | jm (a16 : Word)
  | call (a16 : Word)
  | cnz (a16 : Word)
  | cz (a16 : Word)
  | cnc (a16 : Word)
  | cc (a16 : Word)
  | cpo (a16 : Word)
  | cpe (a16 : Word)
  | cp (a16 : Word)
  | cm (a16 : Word)
  | ret
  | rnz
  | rz
  | rnc
  | rc
  | rpo
  | rpe
  | rp
  | rm
  | rst (n : BitVec 3)
  -- 47_interrupt_io_halt.md
  | ei
  | di
  | inp (port : Byte)
  | outp (port : Byte)
  | hlt
  -- 48_undefined_opcodes.md: the spec's *NOP, *RET and *JMP
  | undefNop (hole : NopHole)
  | undefRet
  | undefJmp (a16 : Word)
deriving DecidableEq, Repr

end Sys2Proof
end

