-- ==== Sys2Proof/WellFormed.lean ====
section
/-! DEFINITION. Which terms of the syntax are instructions of the machine. The types of the operands already
say all but one thing: MOV M,M does not exist (42_move_indirect.md R163). Every d8, d16, a16, port number and
RST number is legal (30_encoding.md R90). -/

namespace Sys2Proof

/-- R163: "`MOV M,M` is undefined and not encoded"; every other term is an instruction. -/
def Instr.wf : Instr → Bool
  | .mov .m .m => false
  | .mov (.reg _) _ | .mov .m (.reg _) => true
  | .nop | .stc | .cmc | .inr _ | .dcr _ | .cma | .daa | .stax _ | .ldax _ => true
  | .add _ | .adc _ | .sub _ | .sbb _ | .ana _ | .xra _ | .ora _ | .cmp _ => true
  | .rlc | .rrc | .ral | .rar => true
  | .push _ | .pop _ | .dad _ | .inx _ | .dcx _ | .xchg | .xthl | .sphl => true
  | .lxi _ _ | .mvi _ _ | .adi _ | .aci _ | .sui _ | .sbi _ | .ani _ | .xri _ | .ori _ | .cpi _ => true
  | .sta _ | .lda _ | .shld _ | .lhld _ => true
  | .jmp _ | .pchl | .jnz _ | .jz _ | .jnc _ | .jc _ | .jpo _ | .jpe _ | .jp _ | .jm _ => true
  | .call _ | .cnz _ | .cz _ | .cnc _ | .cc _ | .cpo _ | .cpe _ | .cp _ | .cm _ => true
  | .ret | .rnz | .rz | .rnc | .rc | .rpo | .rpe | .rp | .rm | .rst _ => true
  | .ei | .di | .inp _ | .outp _ | .hlt => true
  | .undefNop _ | .undefRet | .undefJmp _ => true

end Sys2Proof
end

