-- ==== Sys2Proof/Decode.lean ====
section
/-! DEFINITION. Bytes to instructions and back (30_encoding.md). The decoder reads the bit fields of the
opcode byte (R83 to R86) in the order of the pattern table of R88; the encoder writes the map of R88.
The numbering is the spec's (its G1, G2 and G5 items; log 8). -/

namespace Sys2Proof

/-! ## Bytes and words -/

/-- `{hi, lo}` of R11. -/
def joinBytes (hi lo : Byte) : Word := hi ++ lo

/-- `v[15:8]`. -/
def highByte (w : Word) : Byte := w.extractLsb' 8 8

/-- `v[7:0]`. -/
def lowByte (w : Word) : Byte := w.extractLsb' 0 8

/-! ## Operand codes -/

/-- R83: B C D E H L M A are 0 to 7. -/
def Operand8.code : Operand8 → BitVec 3
  | .reg .b => 0
  | .reg .c => 1
  | .reg .d => 2
  | .reg .e => 3
  | .reg .h => 4
  | .reg .l => 5
  | .m => 6
  | .reg .a => 7

/-- R83, read the other way. -/
def Operand8.ofCode (c : BitVec 3) : Operand8 :=
  match c with
  | 0#3 => .reg .b
  | 1#3 => .reg .c
  | 2#3 => .reg .d
  | 3#3 => .reg .e
  | 4#3 => .reg .h
  | 5#3 => .reg .l
  | 6#3 => .m
  | 7#3 => .reg .a

/-- R84, the row of LXI, INX, DCX and DAD. -/
def Pair.code : Pair → BitVec 2
  | .bc => 0
  | .de => 1
  | .hl => 2
  | .sp => 3

/-- R84, read the other way. -/
def Pair.ofCode (p : BitVec 2) : Pair :=
  match p with
  | 0#2 => .bc
  | 1#2 => .de
  | 2#2 => .hl
  | 3#2 => .sp

/-- R84, the row of PUSH and POP. -/
def StackPair.code : StackPair → BitVec 2
  | .bc => 0
  | .de => 1
  | .hl => 2
  | .psw => 3

/-- R84, read the other way. -/
def StackPair.ofCode (p : BitVec 2) : StackPair :=
  match p with
  | 0#2 => .bc
  | 1#2 => .de
  | 2#2 => .hl
  | 3#2 => .psw

/-- R84, the row of STAX and LDAX: bit 4 of the opcode (`000p0010`, `000p1010`). -/
def IndexPair.code : IndexPair → BitVec 2
  | .bc => 0
  | .de => 1

/-- The ten undefined bytes that run as NOP (R370, R371). -/
def NopHole.byte : NopHole → Byte
  | .x08 => 0x08
  | .x10 => 0x10
  | .x18 => 0x18
  | .x20 => 0x20
  | .x28 => 0x28
  | .x30 => 0x30
  | .x38 => 0x38
  | .xDD => 0xDD
  | .xED => 0xED
  | .xFD => 0xFD

/-! ## Decoding -/

/-- Why bytes are no instruction. No opcode byte is ever rejected (R90): only too few bytes are. -/
inductive DecodeError where
  /-- No byte at all. Raised by `decode` alone; safe, the fetch of a step always reads an opcode byte. -/
  | noBytes
  /-- Fewer bytes than the opcode byte needs (R91). Raised by `decode` alone; safe, the fetch of a step
  reads as many bytes as the opcode needs. -/
  | truncated
deriving DecidableEq, Repr

/-- What the decoder answers: an instruction and the bytes after it, or a named rejection. -/
inductive Decoded where
  | ok (i : Instr) (rest : List Byte)
  | rejected (why : DecodeError)
deriving DecidableEq, Repr

/-- Format F2 (R81): byte 2 is d8. -/
def withByte (k : Byte → Instr) : List Byte → Decoded
  | d8 :: rest => .ok (k d8) rest
  | [] => .rejected .truncated

/-- Format F3 (R81, R87, D1; log 9): byte 2 is the low byte and byte 3 the high byte. -/
def withWord (k : Word → Instr) : List Byte → Decoded
  | lo :: hi :: rest => .ok (k (joinBytes hi lo)) rest
  | _ => .rejected .truncated

/-- Opcodes `00 y z`. -/
def decodeQuadrant0 (y z : BitVec 3) (rest : List Byte) : Decoded :=
  match z with
  | 0#3 =>
    match y with
    | 0#3 => .ok .nop rest
    | 1#3 => .ok (.undefNop .x08) rest
    | 2#3 => .ok (.undefNop .x10) rest
    | 3#3 => .ok (.undefNop .x18) rest
    | 4#3 => .ok (.undefNop .x20) rest
    | 5#3 => .ok (.undefNop .x28) rest
    | 6#3 => .ok (.undefNop .x30) rest
    | 7#3 => .ok (.undefNop .x38) rest
  | 1#3 =>
    if y.getLsbD 0 then .ok (.dad (Pair.ofCode (y.extractLsb' 1 2))) rest
    else withWord (.lxi (Pair.ofCode (y.extractLsb' 1 2))) rest
  | 2#3 =>
    match y with
    | 0#3 => .ok (.stax .bc) rest
    | 1#3 => .ok (.ldax .bc) rest
    | 2#3 => .ok (.stax .de) rest
    | 3#3 => .ok (.ldax .de) rest
    | 4#3 => withWord .shld rest
    | 5#3 => withWord .lhld rest
    | 6#3 => withWord .sta rest
    | 7#3 => withWord .lda rest
  | 3#3 =>
    if y.getLsbD 0 then .ok (.dcx (Pair.ofCode (y.extractLsb' 1 2))) rest
    else .ok (.inx (Pair.ofCode (y.extractLsb' 1 2))) rest
  | 4#3 => .ok (.inr (Operand8.ofCode y)) rest
  | 5#3 => .ok (.dcr (Operand8.ofCode y)) rest
  | 6#3 => withByte (.mvi (Operand8.ofCode y)) rest
  | 7#3 =>
    match y with
    | 0#3 => .ok .rlc rest
    | 1#3 => .ok .rrc rest
    | 2#3 => .ok .ral rest
    | 3#3 => .ok .rar rest
    | 4#3 => .ok .daa rest
    | 5#3 => .ok .cma rest
    | 6#3 => .ok .stc rest
    | 7#3 => .ok .cmc rest

/-- Opcodes `01 y z`: HLT in the slot of MOV M,M (R163), MOV otherwise. -/
def decodeQuadrant1 (y z : BitVec 3) (rest : List Byte) : Decoded :=
  if y = 6 ∧ z = 6 then .ok .hlt rest
  else .ok (.mov (Operand8.ofCode y) (Operand8.ofCode z)) rest

/-- Opcodes `10 y z` (R86, register form). -/
def decodeQuadrant2 (y z : BitVec 3) (rest : List Byte) : Decoded :=
  match y with
  | 0#3 => .ok (.add (Operand8.ofCode z)) rest
  | 1#3 => .ok (.adc (Operand8.ofCode z)) rest
  | 2#3 => .ok (.sub (Operand8.ofCode z)) rest
  | 3#3 => .ok (.sbb (Operand8.ofCode z)) rest
  | 4#3 => .ok (.ana (Operand8.ofCode z)) rest
  | 5#3 => .ok (.xra (Operand8.ofCode z)) rest
  | 6#3 => .ok (.ora (Operand8.ofCode z)) rest
  | 7#3 => .ok (.cmp (Operand8.ofCode z)) rest

/-- Opcodes `11 y z`. -/
def decodeQuadrant3 (y z : BitVec 3) (rest : List Byte) : Decoded :=
  match z with
  | 0#3 =>
    match y with
    | 0#3 => .ok .rnz rest
    | 1#3 => .ok .rz rest
    | 2#3 => .ok .rnc rest
    | 3#3 => .ok .rc rest
    | 4#3 => .ok .rpo rest
    | 5#3 => .ok .rpe rest
    | 6#3 => .ok .rp rest
    | 7#3 => .ok .rm rest
  | 1#3 =>
    match y with
    | 0#3 => .ok (.pop .bc) rest
    | 1#3 => .ok .ret rest
    | 2#3 => .ok (.pop .de) rest
    | 3#3 => .ok .undefRet rest
    | 4#3 => .ok (.pop .hl) rest
    | 5#3 => .ok .pchl rest
    | 6#3 => .ok (.pop .psw) rest
    | 7#3 => .ok .sphl rest
  | 2#3 =>
    match y with
    | 0#3 => withWord .jnz rest
    | 1#3 => withWord .jz rest
    | 2#3 => withWord .jnc rest
    | 3#3 => withWord .jc rest
    | 4#3 => withWord .jpo rest
    | 5#3 => withWord .jpe rest
    | 6#3 => withWord .jp rest
    | 7#3 => withWord .jm rest
  | 3#3 =>
    match y with
    | 0#3 => withWord .jmp rest
    | 1#3 => withWord .undefJmp rest
    | 2#3 => withByte .outp rest
    | 3#3 => withByte .inp rest
    | 4#3 => .ok .xthl rest
    | 5#3 => .ok .xchg rest
    | 6#3 => .ok .di rest
    | 7#3 => .ok .ei rest
  | 4#3 =>
    match y with
    | 0#3 => withWord .cnz rest
    | 1#3 => withWord .cz rest
    | 2#3 => withWord .cnc rest
    | 3#3 => withWord .cc rest
    | 4#3 => withWord .cpo rest
    | 5#3 => withWord .cpe rest
    | 6#3 => withWord .cp rest
    | 7#3 => withWord .cm rest
  | 5#3 =>
    match y with
    | 0#3 => .ok (.push .bc) rest
    | 1#3 => withWord .call rest
    | 2#3 => .ok (.push .de) rest
    | 3#3 => .ok (.undefNop .xDD) rest
    | 4#3 => .ok (.push .hl) rest
    | 5#3 => .ok (.undefNop .xED) rest
    | 6#3 => .ok (.push .psw) rest
    | 7#3 => .ok (.undefNop .xFD) rest
  | 6#3 =>
    match y with
    | 0#3 => withByte .adi rest
    | 1#3 => withByte .aci rest
    | 2#3 => withByte .sui rest
    | 3#3 => withByte .sbi rest
    | 4#3 => withByte .ani rest
    | 5#3 => withByte .xri rest
    | 6#3 => withByte .ori rest
    | 7#3 => withByte .cpi rest
  | 7#3 => .ok (.rst y) rest

/-- The decoder: the opcode byte alone decides which instruction follows (R80, R82); the operand bytes are
taken from the bytes after it. Total on any bytes (R90). -/
def decode : List Byte → Decoded
  | [] => .rejected .noBytes
  | op :: rest =>
    match op.extractLsb' 6 2 with
    | 0#2 => decodeQuadrant0 (op.extractLsb' 3 3) (op.extractLsb' 0 3) rest
    | 1#2 => decodeQuadrant1 (op.extractLsb' 3 3) (op.extractLsb' 0 3) rest
    | 2#2 => decodeQuadrant2 (op.extractLsb' 3 3) (op.extractLsb' 0 3) rest
    | 3#2 => decodeQuadrant3 (op.extractLsb' 3 3) (op.extractLsb' 0 3) rest

/-- The length of an instruction from its opcode byte, by the bit tests of R91. -/
def opcodeLength (op : Byte) : Nat :=
  if op &&& 0xCF = 0x01 ∨ op &&& 0xE7 = 0x22 ∨ op &&& 0xC7 = 0xC2 ∨ op &&& 0xC7 = 0xC4
      ∨ op &&& 0xF7 = 0xC3 ∨ op = 0xCD then 3
  else if op &&& 0xC7 = 0x06 ∨ op &&& 0xC7 = 0xC6 ∨ op &&& 0xF7 = 0xD3 then 2
  else 1

/-! ## Encoding -/

/-- The opcode byte from its three fields (R83). -/
def opByte (quadrant : BitVec 2) (y z : BitVec 3) : Byte := quadrant ++ y ++ z

/-- The middle field of an opcode with a pair code `pp` in bits 5 and 4 and a sub-opcode bit 3 (R83). -/
def pairField (pp : BitVec 2) (sub : BitVec 1) : BitVec 3 := pp ++ sub

/-- Format F3 (R81, D1; log 9). -/
def format3 (op : Byte) (v : Word) : List Byte := [op, lowByte v, highByte v]

/-- The bytes of an instruction, from the map of R88 and the patterns below it. The term MOV M,M, which is
no instruction, gets the byte of the pattern, which is HLT's (R163). -/
def encode : Instr → List Byte
  | .nop => [0x00]
  | .stc => [0x37]
  | .cmc => [0x3F]
  | .inr x => [opByte 0 x.code 4]
  | .dcr x => [opByte 0 x.code 5]
  | .cma => [0x2F]
  | .daa => [0x27]
  | .mov dst src => [opByte 1 dst.code src.code]
  | .stax p => [opByte 0 (pairField p.code 0) 2]
  | .ldax p => [opByte 0 (pairField p.code 1) 2]
  | .add x => [opByte 2 0 x.code]
  | .adc x => [opByte 2 1 x.code]
  | .sub x => [opByte 2 2 x.code]
  | .sbb x => [opByte 2 3 x.code]
  | .ana x => [opByte 2 4 x.code]
  | .xra x => [opByte 2 5 x.code]
  | .ora x => [opByte 2 6 x.code]
  | .cmp x => [opByte 2 7 x.code]
  | .rlc => [0x07]
  | .rrc => [0x0F]
  | .ral => [0x17]
  | .rar => [0x1F]
  | .push p => [opByte 3 (pairField p.code 0) 5]
  | .pop p => [opByte 3 (pairField p.code 0) 1]
  | .dad p => [opByte 0 (pairField p.code 1) 1]
  | .inx p => [opByte 0 (pairField p.code 0) 3]
  | .dcx p => [opByte 0 (pairField p.code 1) 3]
  | .xchg => [0xEB]
  | .xthl => [0xE3]
  | .sphl => [0xF9]
  | .lxi p d16 => format3 (opByte 0 (pairField p.code 0) 1) d16
  | .mvi x d8 => [opByte 0 x.code 6, d8]
  | .adi d8 => [0xC6, d8]
  | .aci d8 => [0xCE, d8]
  | .sui d8 => [0xD6, d8]
  | .sbi d8 => [0xDE, d8]
  | .ani d8 => [0xE6, d8]
  | .xri d8 => [0xEE, d8]
  | .ori d8 => [0xF6, d8]
  | .cpi d8 => [0xFE, d8]
  | .sta a16 => format3 0x32 a16
  | .lda a16 => format3 0x3A a16
  | .shld a16 => format3 0x22 a16
  | .lhld a16 => format3 0x2A a16
  | .jmp a16 => format3 0xC3 a16
  | .pchl => [0xE9]
  | .jnz a16 => format3 0xC2 a16
  | .jz a16 => format3 0xCA a16
  | .jnc a16 => format3 0xD2 a16
  | .jc a16 => format3 0xDA a16
  | .jpo a16 => format3 0xE2 a16
  | .jpe a16 => format3 0xEA a16
  | .jp a16 => format3 0xF2 a16
  | .jm a16 => format3 0xFA a16
  | .call a16 => format3 0xCD a16
  | .cnz a16 => format3 0xC4 a16
  | .cz a16 => format3 0xCC a16
  | .cnc a16 => format3 0xD4 a16
  | .cc a16 => format3 0xDC a16
  | .cpo a16 => format3 0xE4 a16
  | .cpe a16 => format3 0xEC a16
  | .cp a16 => format3 0xF4 a16
  | .cm a16 => format3 0xFC a16
  | .ret => [0xC9]
  | .rnz => [0xC0]
  | .rz => [0xC8]
  | .rnc => [0xD0]
  | .rc => [0xD8]
  | .rpo => [0xE0]
  | .rpe => [0xE8]
  | .rp => [0xF0]
  | .rm => [0xF8]
  | .rst n => [opByte 3 n 7]
  | .ei => [0xFB]
  | .di => [0xF3]
  | .inp port => [0xDB, port]
  | .outp port => [0xD3, port]
  | .hlt => [0x76]
  | .undefNop hole => [hole.byte]
  | .undefRet => [0xD9]
  | .undefJmp a16 => format3 0xCB a16

/-- The length of an instruction in bytes (R81). -/
def Instr.length (i : Instr) : Nat := (encode i).length

/-! ## Words of the opcode table -/

/-- The `k`-th byte of an instruction whose bits are `w` in the numbering of spec/opcode_table.json, the
bits above `nbits` zero. -/
def tableByte (nbits w k : Nat) : Byte := BitVec.ofNat 8 (w % 2 ^ nbits / 256 ^ k)

/-- The instruction the decoder reads from a word of the opcode table. -/
def decodeTableWord (nbits w : Nat) : Option Instr :=
  match decode [tableByte nbits w 0, tableByte nbits w 1, tableByte nbits w 2] with
  | .ok i _ => some i
  | .rejected _ => none

end Sys2Proof
end

