-- ==== Sys2Proof/Machine/State.lean ====
section
/-! DEFINITION. The state of the machine (10_state.md), its construction (70_reset_and_hazards.md R430), and
the reasons a step can stop. -/

namespace Sys2Proof.Machine

/-- The five condition flags, "a small record of named booleans (not a packed byte)" (R25 to R30). -/
structure Flags where
  s : Bool
  z : Bool
  ac : Bool
  p : Bool
  cy : Bool
deriving DecidableEq, Repr

/-- The memory behind the default bus (20_memory.md R50, R53): the bytes that differ from
`Config.unlistedByte`, by address. `Memory.wf` (Machine/Ops.lean) is its canonical form. -/
abbrev Memory := List Host.Cell

/-- `PORT_SEAM` (00_scope.md R7, D6): whether the host wired the port callbacks of IN and OUT. -/
inductive PortSeam where
  | stub
  | wired
deriving DecidableEq, Repr

/-- Everything the spec gives the machine, as plain data. -/
structure State where
  /-- The seven general registers (R20). -/
  a : Byte
  b : Byte
  c : Byte
  d : Byte
  e : Byte
  h : Byte
  l : Byte
  /-- The stack pointer (R23). -/
  sp : Word
  /-- The program counter (R24). -/
  pc : Word
  /-- The condition flags (R25). -/
  flags : Flags
  /-- The interrupt-enable flip-flop (R31). -/
  inte : Bool
  /-- The memory behind the bus (R53). -/
  mem : Memory
  /-- The parameter `PORT_SEAM` (R7); no instruction changes it (log 4). -/
  seam : PortSeam
  /-- The MODEL's own: how many bytes a wired IN has read; it picks the free value (log 5). -/
  portReads : Nat
  /-- The MODEL's own: the pairs (port, byte) that a wired OUT handed to the host, newest first (log 6). -/
  portWrites : List (Byte × Byte)
deriving DecidableEq, Repr

/-- The faults of the machine: there are none, "The block raises no synchronous exception of any kind"
(60_exceptions.md R400, log 17). -/
inductive Fault where
deriving DecidableEq, Repr

/-- The reasons to refuse. -/
inductive Refusal where
  /-- Raised by an arm of `exec` for an instruction that has no meaning yet; there is none. Safe. -/
  | notModelled (mnemonic : String)
  /-- Raised by the meaning of MOV for the term MOV M,M, which "is undefined and not encoded" (R163). Safe:
  no bytes decode to it, so no step reaches it. -/
  | notEncoded
  /-- Raised by `step` if the fetched bytes decode to no instruction. Safe: no step reaches it, since the
  decoder "is total on any bytes and never refuses" (R90). -/
  | undecodable (why : DecodeError)
deriving DecidableEq, Repr

/-- What executing an instruction answers. -/
abbrev Result := Host.Outcome State Fault Refusal

/-- All flags 0 (R39). -/
def Flags.cleared : Flags := { s := false, z := false, ac := false, p := false, cy := false }

/-- Construction, which is reset (R430, R39): registers, flags, SP and INTE are zero, PC is `resetPc`, and
memory and the port seam are what the host supplies. No bus operation is invoked. -/
def State.construct (resetPc : Word) (mem : Memory) (seam : PortSeam) : State :=
  { a := 0x00, b := 0x00, c := 0x00, d := 0x00, e := 0x00, h := 0x00, l := 0x00
    sp := 0x0000, pc := resetPc
    flags := Flags.cleared, inte := false
    mem := mem, seam := seam, portReads := 0, portWrites := [] }

/-- The machine right after reset, with the parameters of log 1 (RESET_PC), log 2 (nothing listed in
memory) and log 4 (the port seam is the stub). -/
def State.reset : State := State.construct Config.resetPc [] .stub

end Sys2Proof.Machine
end

