-- ==== Sys2Proof/Machine/Flags.lean ====
section
/-! DEFINITION. The flag and arithmetic units (40_flag_alu_units.md) and the packed flag byte (10_state.md
R32). Sums and differences are computed exactly and narrowed at the end. -/

namespace Sys2Proof.Machine

/-- The number of 1 bits (R12). -/
def popcount (v : Byte) : Nat := (List.range 8).countP fun k => v.getLsbD k

/-- `Parity(v)` of R110: even parity. -/
def parity (v : Byte) : Bool := popcount v % 2 == 0

/-- The flags of an 8-bit result: `SZP(r)` (R111) beside the given AC and CY. -/
def Flags.ofResult (r : Byte) (ac cy : Bool) : Flags :=
  { s := r.getLsbD 7, z := r == 0, ac := ac, p := parity r, cy := cy }

/-- `v[3:0]`. -/
def lowNibble (v : Byte) : Nat := v.toNat % 16

/-- `v[7:4]`. -/
def highNibble (v : Byte) : Nat := v.toNat / 16

/-- What an 8-bit unit answers: the result, the carry or borrow out of bit 7, the one out of bit 3. -/
structure AluOut where
  r : Byte
  cy : Bool
  ac : Bool
deriving DecidableEq, Repr

/-- `Add8(a, b, cin)` of R112. -/
def add8 (a b : Byte) (cin : Bool) : AluOut :=
  let sum9 := a.toNat + b.toNat + cin.toNat
  let nib5 := lowNibble a + lowNibble b + cin.toNat
  { r := BitVec.ofNat 8 sum9, cy := decide (255 < sum9), ac := decide (15 < nib5) }

/-- `Sub8(a, b, bin)` of R113; AC is a borrow out of the low nibble (D19, log 18). -/
def sub8 (a b : Byte) (bin : Bool) : AluOut :=
  { r := BitVec.ofInt 8 ((a.toNat : Int) - b.toNat - bin.toNat)
    cy := decide (a.toNat < b.toNat + bin.toNat)
    ac := decide (lowNibble a < lowNibble b + bin.toNat) }

/-- The flags of a logical result, `Logic8(r)` of R114: CY and AC are cleared (D4, log 12). -/
def Flags.ofLogic (r : Byte) : Flags := Flags.ofResult r false false

/-- `Inc8(v)` of R115: the new byte and AC. -/
def inc8 (v : Byte) : Byte × Bool :=
  let r := v + 1
  (r, lowNibble r == 0)

/-- `Dec8(v)` of R115: the new byte and AC. -/
def dec8 (v : Byte) : Byte × Bool := (v - 1, lowNibble v == 0)

/-- Step 1 of `Daa` (R116): the low nibble, with a carry out of bit 7 counting as CY (D2) and AC the nibble
carry of this addition (D3; log 11). -/
def daaLow (a : Byte) (ac cy : Bool) : AluOut :=
  if 9 < lowNibble a ∨ ac then
    let t1 := a.toNat + 6
    { r := BitVec.ofNat 8 t1, cy := cy || decide (255 < t1), ac := decide (15 < lowNibble a + 6) }
  else { r := a, cy := cy, ac := ac }

/-- Step 2 of `Daa` (R116): the high nibble of the possibly updated value. -/
def daaHigh (a1 : Byte) (cy1 : Bool) : Byte × Bool :=
  if 9 < highNibble a1 ∨ cy1 then
    let t2 := a1.toNat + 0x60
    (BitVec.ofNat 8 t2, cy1 || decide (255 < t2))
  else (a1, cy1)

/-- `Daa(a, ac, cy)` of R116. -/
def daa8 (a : Byte) (ac cy : Bool) : AluOut :=
  let low := daaLow a ac cy
  let high := daaHigh low.r low.cy
  { r := high.1, cy := high.2, ac := low.ac }

/-- `Add16(x, y)` of R117: the sum and the carry out of bit 15. -/
def add16 (x y : Word) : Word × Bool :=
  let sum17 := x.toNat + y.toNat
  (BitVec.ofNat 16 sum17, decide (65535 < sum17))

/-- `Rlc(a)` of R118: left, bit 7 wraps into bit 0 (direction: log 10). -/
def rlc8 (a : Byte) : Byte × Bool := (a.rotateLeft 1, a.getLsbD 7)

/-- `Rrc(a)` of R118: right, bit 0 wraps into bit 7. -/
def rrc8 (a : Byte) : Byte × Bool := (a.rotateRight 1, a.getLsbD 0)

/-- `Ral(a, cy)` of R118: left through carry. -/
def ral8 (a : Byte) (cy : Bool) : Byte × Bool := (a.extractLsb' 0 7 ++ BitVec.ofBool cy, a.getLsbD 7)

/-- `Rar(a, cy)` of R118: right through carry. -/
def rar8 (a : Byte) (cy : Bool) : Byte × Bool := (BitVec.ofBool cy ++ a.extractLsb' 1 7, a.getLsbD 0)

/-- `cond(ccc)` of R120. -/
def condHolds (k : Cond) (f : Flags) : Bool :=
  match k with
  | .nz => !f.z
  | .z => f.z
  | .nc => !f.cy
  | .c => f.cy
  | .po => !f.p
  | .pe => f.p
  | .p => !f.s
  | .m => f.s

/-- `PackFlags()` of R32: S Z 0 AC 0 P 1 CY, bit 7 first. -/
def Flags.pack (f : Flags) : Byte :=
  BitVec.ofBool f.s ++ BitVec.ofBool f.z ++ 0#1 ++ BitVec.ofBool f.ac ++ 0#1 ++ BitVec.ofBool f.p ++ 1#1
    ++ BitVec.ofBool f.cy

/-- `UnpackFlags(f)` of R32: bits 5, 3 and 1 are ignored (D15, log 20). -/
def Flags.unpack (f : Byte) : Flags :=
  { s := f.getLsbD 7, z := f.getLsbD 6, ac := f.getLsbD 4, p := f.getLsbD 2, cy := f.getLsbD 0 }

end Sys2Proof.Machine
end

