-- ==== Sys2Proof/Machine/Ops.lean ====
section
/-! DEFINITION. The named operations over memory and registers (00_scope.md R13 to R15, 20_memory.md,
10_state.md), the fetch of an instruction (30_encoding.md R80) and the transfer of control. The machine takes
no exception and returns from none (60_exceptions.md R403, R404), so there is no such operation (log 17). -/

namespace Sys2Proof.Machine

/-! ## Memory as a list -/

/-- The byte at an address: the listed one, else what an unlisted address reads as (R51, R53). -/
def Memory.readAt : Memory → Nat → Byte
  | [], _ => Config.unlistedByte
  | (k, v) :: rest, n => if k = n then v else Memory.readAt rest n

/-- The memory with no entry for an address. -/
def Memory.eraseAt : Memory → Nat → Memory
  | [], _ => []
  | (k, w) :: rest, n => if k = n then Memory.eraseAt rest n else (k, w) :: Memory.eraseAt rest n

/-- The memory with an entry put in its place by address. -/
def Memory.insertAt : Memory → Nat → Byte → Memory
  | [], n, v => [(n, v)]
  | (k, w) :: rest, n, v => if n < k then (n, v) :: (k, w) :: rest else (k, w) :: Memory.insertAt rest n v

/-- The memory with one byte changed (R52), in canonical form: a byte equal to what an unlisted address
reads as is not listed. -/
def Memory.writeAt (m : Memory) (n : Nat) (v : Byte) : Memory :=
  if v = Config.unlistedByte then m.eraseAt n else (m.eraseAt n).insertAt n v

/-- The canonical form from address `lo` on: addresses strictly rising and inside the 65536 of R50, no
entry equal to what an unlisted address reads as. -/
def Memory.wfFrom : Nat → Memory → Bool
  | _, [] => true
  | lo, (k, v) :: rest =>
    decide (lo ≤ k) && decide (k < 65536) && decide (v ≠ Config.unlistedByte) && Memory.wfFrom (k + 1) rest

/-- The canonical form of memory. -/
def Memory.wf (m : Memory) : Bool := Memory.wfFrom 0 m

/-! ## The bus -/

/-- `MemRead(addr, 1)`, the bus operation `read_byte` (R14, R51). -/
def State.read8 (s : State) (addr : Word) : Byte := s.mem.readAt addr.toNat

/-- `MemWrite(addr, 1, v)`, the bus operation `write_byte` (R14, R52). -/
def State.write8 (s : State) (addr : Word) (v : Byte) : State :=
  { s with mem := s.mem.writeAt addr.toNat v }

/-- `Read16(addr)` of R14: the low byte is at the lower address (R55); addresses wrap (R58, log 14). -/
def State.read16 (s : State) (addr : Word) : Word := joinBytes (s.read8 (addr + 1)) (s.read8 addr)

/-- `Write16(addr, v)` of R14: the low byte first. -/
def State.write16 (s : State) (addr : Word) (v : Word) : State :=
  (s.write8 addr (lowByte v)).write8 (addr + 1) (highByte v)

/-- A write the host makes between steps (60_exceptions.md R411, D18): a move on memory alone. -/
def State.hostWrite (s : State) (addr : Word) (v : Byte) : State := s.write8 addr v

/-! ## Registers -/

/-- The value of a general register (R20). -/
def State.reg (s : State) : Reg8 → Byte
  | .a => s.a
  | .b => s.b
  | .c => s.c
  | .d => s.d
  | .e => s.e
  | .h => s.h
  | .l => s.l

/-- Writing a general register (R20). -/
def State.setReg (s : State) (r : Reg8) (v : Byte) : State :=
  match r with
  | .a => { s with a := v }
  | .b => { s with b := v }
  | .c => { s with c := v }
  | .d => { s with d := v }
  | .e => { s with e := v }
  | .h => { s with h := v }
  | .l => { s with l := v }

/-- `BC`, a view of B and C (R21). -/
def State.bc (s : State) : Word := joinBytes s.b s.c

/-- `DE`, a view of D and E (R21). -/
def State.de (s : State) : Word := joinBytes s.d s.e

/-- `HL`, a view of H and L (R21). -/
def State.hl (s : State) : Word := joinBytes s.h s.l

/-- The PSW, a view of A and the packed flags (R33). -/
def State.psw (s : State) : Word := joinBytes s.a s.flags.pack

def State.setSp (s : State) (v : Word) : State := { s with sp := v }

def State.setPc (s : State) (v : Word) : State := { s with pc := v }

def State.setFlags (s : State) (f : Flags) : State := { s with flags := f }

/-- Writing CY alone. -/
def State.setCy (s : State) (cy : Bool) : State := { s with flags := { s.flags with cy := cy } }

def State.setInte (s : State) (v : Bool) : State := { s with inte := v }

/-! ## Fetching an instruction -/

/-- `Fetch8()` of R15: the byte at PC, and PC moved past it. -/
def State.fetch8 (s : State) : Byte × State := (s.read8 s.pc, s.setPc (s.pc + 1))

/-- `n` consecutive bytes from PC on, each fetch advancing PC (R15). -/
def State.fetchBytes (s : State) : Nat → List Byte × State
  | 0 => ([], s)
  | n + 1 => (s.fetch8.1 :: (s.fetch8.2.fetchBytes n).1, (s.fetch8.2.fetchBytes n).2)

/-- The fetch of one instruction (R80, R82): the opcode byte, then as many operand bytes as it needs. PC
ends past every byte fetched. -/
def State.fetchInstr (s : State) : Decoded × State :=
  let op := s.fetch8.1
  let operands := s.fetch8.2.fetchBytes (opcodeLength op - 1)
  (decode (op :: operands.1), operands.2)

/-! ## The stack and the transfer of control -/

/-- `Push16(v)` of R15 and R218: high byte at SP - 1, low byte at SP - 2, both from the old SP. -/
def State.push16 (s : State) (v : Word) : State :=
  ((s.write8 (s.sp - 1) (highByte v)).write8 (s.sp - 2) (lowByte v)).setSp (s.sp - 2)

/-- `Pop16()` of R15 and R219: low byte at SP, high byte at SP + 1, SP + 2. -/
def State.pop16 (s : State) : Word × State := (s.read16 s.sp, s.setSp (s.sp + 2))

/-- The jump of R302 for any condition: PC already points past the instruction. -/
def State.jumpIf (s : State) (k : Cond) (target : Word) : State :=
  if condHolds k s.flags then s.setPc target else s

/-- Pushing the return address and going to the target (R310, R328). -/
def State.callTo (s : State) (target : Word) : State := (s.push16 s.pc).setPc target

/-- The call of R311 for any condition. -/
def State.callIf (s : State) (k : Cond) (target : Word) : State :=
  if condHolds k s.flags then s.callTo target else s

/-- Popping the target into PC (R319). -/
def State.returnToCaller (s : State) : State := s.pop16.2.setPc s.pop16.1

/-- The return of R320 for any condition. -/
def State.returnIf (s : State) (k : Cond) : State :=
  if condHolds k s.flags then s.returnToCaller else s

/-! ## The port seam -/

/-- `A <- PortIn(port)` if the seam is wired, nothing if it is the stub (R352; log 4, 5 and 7). -/
def State.portIn (s : State) (port : Byte) : State :=
  match s.seam with
  | .stub => s
  | .wired => { s with a := Config.portInByte s.portReads port, portReads := s.portReads + 1 }

/-- `PortOut(port, A)` if the seam is wired, nothing if it is the stub (R353; log 4, 6 and 7). -/
def State.portOut (s : State) (port : Byte) : State :=
  match s.seam with
  | .stub => s
  | .wired => { s with portWrites := (port, s.a) :: s.portWrites }

end Sys2Proof.Machine
end

