-- ==== Sys2Proof/Machine/Operands.lean ====
section
/-! DEFINITION. Reading and writing every operand form (30_encoding.md R83, R84, R87; 10_state.md R21, R22,
R33), and the accumulator operations that the register, memory and immediate forms share. -/

namespace Sys2Proof.Machine

/-- `reg8[c]` (R83): a register, or the memory byte at HL. -/
def State.operand (s : State) : Operand8 → Byte
  | .reg r => s.reg r
  | .m => s.read8 s.hl

/-- `reg8[c] <- v` (R83). -/
def State.setOperand (s : State) (x : Operand8) (v : Byte) : State :=
  match x with
  | .reg r => s.setReg r v
  | .m => s.write8 s.hl v

/-- `pair[p]` in LXI, INX, DCX and DAD (R84). -/
def State.pair (s : State) : Pair → Word
  | .bc => s.bc
  | .de => s.de
  | .hl => s.hl
  | .sp => s.sp

/-- `pair[p] <- v` (R84): `v[15:8]` to the high register, `v[7:0]` to the low one, or `v` to SP. -/
def State.setPair (s : State) (p : Pair) (v : Word) : State :=
  match p with
  | .bc => (s.setReg .b (highByte v)).setReg .c (lowByte v)
  | .de => (s.setReg .d (highByte v)).setReg .e (lowByte v)
  | .hl => (s.setReg .h (highByte v)).setReg .l (lowByte v)
  | .sp => s.setSp v

/-- `pair[p]` in PUSH (R84), with the PSW in the place of SP (R33). -/
def State.stackPair (s : State) : StackPair → Word
  | .bc => s.bc
  | .de => s.de
  | .hl => s.hl
  | .psw => s.psw

/-- `pair[p] <- v` in POP (R84), with the PSW in the place of SP (R227). -/
def State.setStackPair (s : State) (p : StackPair) (v : Word) : State :=
  match p with
  | .bc => s.setPair .bc v
  | .de => s.setPair .de v
  | .hl => s.setPair .hl v
  | .psw => (s.setReg .a (highByte v)).setFlags (Flags.unpack (lowByte v))

/-- The address in BC or DE (R164 to R167). -/
def State.indexAddr (s : State) : IndexPair → Word
  | .bc => s.bc
  | .de => s.de

/-! ## Accumulator operations -/

/-- `A <- r; CY <- cy; AC <- ac; (S, Z, P) <- SZP(r)` (R180 to R187). -/
def State.accumulate (s : State) (out : AluOut) : State :=
  (s.setReg .a out.r).setFlags (Flags.ofResult out.r out.ac out.cy)

/-- The flags of CMP (R194): the result is discarded. -/
def State.compareFlags (s : State) (x : Byte) : State :=
  s.setFlags (Flags.ofResult (sub8 s.a x false).r (sub8 s.a x false).ac (sub8 s.a x false).cy)

/-- `A <- r; CY <- 0; AC <- 0; (S, Z, P) <- SZP(r)` (R188 to R193). -/
def State.accumulateLogic (s : State) (r : Byte) : State :=
  (s.setReg .a r).setFlags (Flags.ofLogic r)

/-- `A <- r; CY <- cy` (R196 to R199). -/
def State.rotateTo (s : State) (out : Byte × Bool) : State := (s.setReg .a out.1).setCy out.2

/-- `reg8[ddd] <- r'; (S, Z, P) <- SZP(r'); AC <- ac`, CY unaffected (R133 to R136). -/
def State.countTo (s : State) (x : Operand8) (out : Byte × Bool) : State :=
  (s.setOperand x out.1).setFlags (Flags.ofResult out.1 out.2 s.flags.cy)

end Sys2Proof.Machine
end

