-- ==== Sys2Proof/Machine/Accumulator.lean ====
section
/-! DEFINITION. The meanings of 43_accumulator_alu_rotate.md: ADD ADC SUB SBB ANA XRA ORA CMP RLC RRC RAL RAR. Each meaning starts with PC already past the instruction (30_encoding.md R80). -/

namespace Sys2Proof.Machine

/-- ADD r and ADD M (R180, R181). -/
def execAdd (x : Operand8) (s : State) : Result := .next (s.accumulate (add8 s.a (s.operand x) false))

/-- ADC r and ADC M (R182, R183). -/
def execAdc (x : Operand8) (s : State) : Result := .next (s.accumulate (add8 s.a (s.operand x) s.flags.cy))

/-- SUB r and SUB M (R184, R185). -/
def execSub (x : Operand8) (s : State) : Result := .next (s.accumulate (sub8 s.a (s.operand x) false))

/-- SBB r and SBB M (R186, R187). -/
def execSbb (x : Operand8) (s : State) : Result := .next (s.accumulate (sub8 s.a (s.operand x) s.flags.cy))

/-- ANA r and ANA M (R188, R189). -/
def execAna (x : Operand8) (s : State) : Result := .next (s.accumulateLogic (s.a &&& s.operand x))

/-- XRA r and XRA M (R190, R191). -/
def execXra (x : Operand8) (s : State) : Result := .next (s.accumulateLogic (s.a ^^^ s.operand x))

/-- ORA r and ORA M (R192, R193). -/
def execOra (x : Operand8) (s : State) : Result := .next (s.accumulateLogic (s.a ||| s.operand x))

/-- CMP r and CMP M (R194, R195). -/
def execCmp (x : Operand8) (s : State) : Result := .next (s.compareFlags (s.operand x))

/-- RLC (R196). -/
def execRlc (s : State) : Result := .next (s.rotateTo (rlc8 s.a))

/-- RRC (R197). -/
def execRrc (s : State) : Result := .next (s.rotateTo (rrc8 s.a))

/-- RAL (R198). -/
def execRal (s : State) : Result := .next (s.rotateTo (ral8 s.a s.flags.cy))

/-- RAR (R199). -/
def execRar (s : State) : Result := .next (s.rotateTo (rar8 s.a s.flags.cy))

end Sys2Proof.Machine
end

