-- ==== Sys2Proof/Machine/CarryCount.lean ====
section
/-! DEFINITION. The meanings of 41_nop_carry_incdec_adjust.md: NOP STC CMC INR DCR CMA DAA. Each meaning starts with PC already past the instruction (30_encoding.md R80). -/

namespace Sys2Proof.Machine

/-- NOP (R130). -/
def execNop (s : State) : Result := .next s

/-- STC (R131). -/
def execStc (s : State) : Result := .next (s.setCy true)

/-- CMC (R132). -/
def execCmc (s : State) : Result := .next (s.setCy (!s.flags.cy))

/-- INR r and INR M (R133, R134). -/
def execInr (x : Operand8) (s : State) : Result := .next (s.countTo x (inc8 (s.operand x)))

/-- DCR r and DCR M (R135, R136). -/
def execDcr (x : Operand8) (s : State) : Result := .next (s.countTo x (dec8 (s.operand x)))

/-- CMA (R137). -/
def execCma (s : State) : Result := .next (s.setReg .a (~~~s.a))

/-- DAA (R138). -/
def execDaa (s : State) : Result := .next (s.accumulate (daa8 s.a s.flags.ac s.flags.cy))

end Sys2Proof.Machine
end

