-- ==== Sys2Proof/Machine/Control.lean ====
section
/-! DEFINITION. The meanings of 46_control_transfer.md: jumps, calls, returns and RST. Each meaning starts with PC already past the instruction (30_encoding.md R80). -/

namespace Sys2Proof.Machine

/-- JMP (R300). -/
def execJmp (a16 : Word) (s : State) : Result := .next (s.setPc a16)

/-- PCHL (R301). -/
def execPchl (s : State) : Result := .next (s.setPc s.hl)

/-- JNZ (R302). -/
def execJnz (a16 : Word) (s : State) : Result := .next (s.jumpIf .nz a16)

/-- JZ (R303). -/
def execJz (a16 : Word) (s : State) : Result := .next (s.jumpIf .z a16)

/-- JNC (R304). -/
def execJnc (a16 : Word) (s : State) : Result := .next (s.jumpIf .nc a16)

/-- JC (R305). -/
def execJc (a16 : Word) (s : State) : Result := .next (s.jumpIf .c a16)

/-- JPO (R306). -/
def execJpo (a16 : Word) (s : State) : Result := .next (s.jumpIf .po a16)

/-- JPE (R307). -/
def execJpe (a16 : Word) (s : State) : Result := .next (s.jumpIf .pe a16)

/-- JP (R308). -/
def execJp (a16 : Word) (s : State) : Result := .next (s.jumpIf .p a16)

/-- JM (R309). -/
def execJm (a16 : Word) (s : State) : Result := .next (s.jumpIf .m a16)

/-- CALL (R310). -/
def execCall (a16 : Word) (s : State) : Result := .next (s.callTo a16)

/-- CNZ (R311). -/
def execCnz (a16 : Word) (s : State) : Result := .next (s.callIf .nz a16)

/-- CZ (R312). -/
def execCz (a16 : Word) (s : State) : Result := .next (s.callIf .z a16)

/-- CNC (R313). -/
def execCnc (a16 : Word) (s : State) : Result := .next (s.callIf .nc a16)

/-- CC (R314). -/
def execCc (a16 : Word) (s : State) : Result := .next (s.callIf .c a16)

/-- CPO (R315). -/
def execCpo (a16 : Word) (s : State) : Result := .next (s.callIf .po a16)

/-- CPE (R316). -/
def execCpe (a16 : Word) (s : State) : Result := .next (s.callIf .pe a16)

/-- CP (R317). -/
def execCp (a16 : Word) (s : State) : Result := .next (s.callIf .p a16)

/-- CM (R318). -/
def execCm (a16 : Word) (s : State) : Result := .next (s.callIf .m a16)

/-- RET (R319). -/
def execRet (s : State) : Result := .next s.returnToCaller

/-- RNZ (R320). -/
def execRnz (s : State) : Result := .next (s.returnIf .nz)

/-- RZ (R321). -/
def execRz (s : State) : Result := .next (s.returnIf .z)

/-- RNC (R322). -/
def execRnc (s : State) : Result := .next (s.returnIf .nc)

/-- RC (R323). -/
def execRc (s : State) : Result := .next (s.returnIf .c)

/-- RPO (R324). -/
def execRpo (s : State) : Result := .next (s.returnIf .po)

/-- RPE (R325). -/
def execRpe (s : State) : Result := .next (s.returnIf .pe)

/-- RP (R326). -/
def execRp (s : State) : Result := .next (s.returnIf .p)

/-- RM (R327). -/
def execRm (s : State) : Result := .next (s.returnIf .m)

/-- RST (R328): the target is `8 * n`. -/
def execRst (n : BitVec 3) (s : State) : Result := .next (s.callTo (n.setWidth 16 <<< 3))

end Sys2Proof.Machine
end

