-- ==== Sys2Proof/Machine/Immediate.lean ====
section
/-! DEFINITION. The meanings of 45_immediate_direct.md: LXI MVI ADI ACI SUI SBI ANI XRI ORI CPI STA LDA SHLD LHLD. Each meaning starts with PC already past the instruction (30_encoding.md R80). -/

namespace Sys2Proof.Machine

/-- LXI (R260 to R263). -/
def execLxi (p : Pair) (d16 : Word) (s : State) : Result := .next (s.setPair p d16)

/-- MVI r and MVI M (R264, R265). -/
def execMvi (x : Operand8) (d8 : Byte) (s : State) : Result := .next (s.setOperand x d8)

/-- ADI (R266). -/
def execAdi (d8 : Byte) (s : State) : Result := .next (s.accumulate (add8 s.a d8 false))

/-- ACI (R267). -/
def execAci (d8 : Byte) (s : State) : Result := .next (s.accumulate (add8 s.a d8 s.flags.cy))

/-- SUI (R268). -/
def execSui (d8 : Byte) (s : State) : Result := .next (s.accumulate (sub8 s.a d8 false))

/-- SBI (R269). -/
def execSbi (d8 : Byte) (s : State) : Result := .next (s.accumulate (sub8 s.a d8 s.flags.cy))

/-- ANI (R270). -/
def execAni (d8 : Byte) (s : State) : Result := .next (s.accumulateLogic (s.a &&& d8))

/-- XRI (R271). -/
def execXri (d8 : Byte) (s : State) : Result := .next (s.accumulateLogic (s.a ^^^ d8))

/-- ORI (R272). -/
def execOri (d8 : Byte) (s : State) : Result := .next (s.accumulateLogic (s.a ||| d8))

/-- CPI (R273). -/
def execCpi (d8 : Byte) (s : State) : Result := .next (s.compareFlags d8)

/-- STA (R274). -/
def execSta (a16 : Word) (s : State) : Result := .next (s.write8 a16 s.a)

/-- LDA (R275). -/
def execLda (a16 : Word) (s : State) : Result := .next (s.setReg .a (s.read8 a16))

/-- SHLD (R276): L at the lower address. -/
def execShld (a16 : Word) (s : State) : Result := .next (s.write16 a16 s.hl)

/-- LHLD (R277). -/
def execLhld (a16 : Word) (s : State) : Result := .next (s.setPair .hl (s.read16 a16))

end Sys2Proof.Machine
end

