-- ==== Sys2Proof/Machine/Move.lean ====
section
/-! DEFINITION. The meanings of 42_move_indirect.md: MOV STAX LDAX. Each meaning starts with PC already past the instruction (30_encoding.md R80). -/

namespace Sys2Proof.Machine

/-- MOV (R160, R161, R162). The term MOV M,M is no instruction (R163, log 23). -/
def execMov (dst src : Operand8) (s : State) : Result :=
  match dst, src with
  | .m, .m => .refused .notEncoded
  | .m, .reg r => .next (s.setOperand .m (s.reg r))
  | .reg r, x => .next (s.setReg r (s.operand x))

/-- STAX B and STAX D (R164, R165). -/
def execStax (p : IndexPair) (s : State) : Result := .next (s.write8 (s.indexAddr p) s.a)

/-- LDAX B and LDAX D (R166, R167). -/
def execLdax (p : IndexPair) (s : State) : Result := .next (s.setReg .a (s.read8 (s.indexAddr p)))

end Sys2Proof.Machine
end

