-- ==== Sys2Proof/Machine/Stack.lean ====
section
/-! DEFINITION. The meanings of 44_stack_pair.md: PUSH POP DAD INX DCX XCHG XTHL SPHL. Each meaning starts with PC already past the instruction (30_encoding.md R80). -/

namespace Sys2Proof.Machine

/-- PUSH (R220 to R223). -/
def execPush (p : StackPair) (s : State) : Result := .next (s.push16 (s.stackPair p))

/-- POP (R224 to R227). -/
def execPop (p : StackPair) (s : State) : Result := .next (s.pop16.2.setStackPair p s.pop16.1)

/-- DAD (R228 to R231): CY is written both ways (D13, log 19), no other flag. -/
def execDad (p : Pair) (s : State) : Result :=
  .next ((s.setPair .hl (add16 s.hl (s.pair p)).1).setCy (add16 s.hl (s.pair p)).2)

/-- INX (R232 to R235): no flags. -/
def execInx (p : Pair) (s : State) : Result := .next (s.setPair p (s.pair p + 1))

/-- DCX (R236 to R239): no flags. -/
def execDcx (p : Pair) (s : State) : Result := .next (s.setPair p (s.pair p - 1))

/-- XCHG (R240). -/
def execXchg (s : State) : Result := .next ((s.setPair .hl s.de).setPair .de s.hl)

/-- XTHL (R241): L with the byte at SP, H with the byte at SP + 1 (D11, log 15). -/
def execXthl (s : State) : Result := .next ((s.write16 s.sp s.hl).setPair .hl (s.read16 s.sp))

/-- SPHL (R242). -/
def execSphl (s : State) : Result := .next (s.setSp s.hl)

end Sys2Proof.Machine
end

