-- ==== Sys2Proof/Machine/System.lean ====
section
/-! DEFINITION. The meanings of 47_interrupt_io_halt.md: EI DI IN OUT HLT. Each meaning starts with PC already past the instruction (30_encoding.md R80). -/

namespace Sys2Proof.Machine

/-- EI (R350): no delay (D17, log 21). -/
def execEi (s : State) : Result := .next (s.setInte true)

/-- DI (R351). -/
def execDi (s : State) : Result := .next (s.setInte false)

/-- IN (R352). -/
def execInp (port : Byte) (s : State) : Result := .next (s.portIn port)

/-- OUT (R353). -/
def execOutp (port : Byte) (s : State) : Result := .next (s.portOut port)

/-- HLT (R354): PC goes back onto the opcode byte (D5, log 13). -/
def execHlt (s : State) : Result := .next (s.setPc (s.pc - 1))

end Sys2Proof.Machine
end

