-- ==== Sys2Proof/Machine/Undefined.lean ====
section
/-! DEFINITION. The meanings of 48_undefined_opcodes.md: the 12 undefined opcode bytes. Each meaning starts with PC already past the instruction (30_encoding.md R80). -/

namespace Sys2Proof.Machine

/-- *NOP (R370, R371): exactly as NOP. -/
def execUndefNop (_hole : NopHole) (s : State) : Result := .next s

/-- *RET, byte 0xD9 (R372): exactly as RET. -/
def execUndefRet (s : State) : Result := .next s.returnToCaller

/-- *JMP, byte 0xCB (R373, C1): exactly as JMP. -/
def execUndefJmp (a16 : Word) (s : State) : Result := .next (s.setPc a16)

end Sys2Proof.Machine
end

