-- ==== Sys2Proof/Machine/Dispatch.lean ====
section
/-! DEFINITION. One arm for every instruction: its meaning. -/

namespace Sys2Proof.Machine

def exec (i : Instr) (s : State) : Host.Outcome State Fault Refusal :=
  match i with
  | .nop => Sys2Proof.Machine.execNop s
  | .stc => Sys2Proof.Machine.execStc s
  | .cmc => Sys2Proof.Machine.execCmc s
  | .inr x => Sys2Proof.Machine.execInr x s
  | .dcr x => Sys2Proof.Machine.execDcr x s
  | .cma => Sys2Proof.Machine.execCma s
  | .daa => Sys2Proof.Machine.execDaa s
  | .mov dst src => Sys2Proof.Machine.execMov dst src s
  | .stax p => Sys2Proof.Machine.execStax p s
  | .ldax p => Sys2Proof.Machine.execLdax p s
  | .add x => Sys2Proof.Machine.execAdd x s
  | .adc x => Sys2Proof.Machine.execAdc x s
  | .sub x => Sys2Proof.Machine.execSub x s
  | .sbb x => Sys2Proof.Machine.execSbb x s
  | .ana x => Sys2Proof.Machine.execAna x s
  | .xra x => Sys2Proof.Machine.execXra x s
  | .ora x => Sys2Proof.Machine.execOra x s
  | .cmp x => Sys2Proof.Machine.execCmp x s
  | .rlc => Sys2Proof.Machine.execRlc s
  | .rrc => Sys2Proof.Machine.execRrc s
  | .ral => Sys2Proof.Machine.execRal s
  | .rar => Sys2Proof.Machine.execRar s
  | .push p => Sys2Proof.Machine.execPush p s
  | .pop p => Sys2Proof.Machine.execPop p s
  | .dad p => Sys2Proof.Machine.execDad p s
  | .inx p => Sys2Proof.Machine.execInx p s
  | .dcx p => Sys2Proof.Machine.execDcx p s
  | .xchg => Sys2Proof.Machine.execXchg s
  | .xthl => Sys2Proof.Machine.execXthl s
  | .sphl => Sys2Proof.Machine.execSphl s
  | .lxi p d16 => Sys2Proof.Machine.execLxi p d16 s
  | .mvi x d8 => Sys2Proof.Machine.execMvi x d8 s
  | .adi d8 => Sys2Proof.Machine.execAdi d8 s
  | .aci d8 => Sys2Proof.Machine.execAci d8 s
  | .sui d8 => Sys2Proof.Machine.execSui d8 s
  | .sbi d8 => Sys2Proof.Machine.execSbi d8 s
  | .ani d8 => Sys2Proof.Machine.execAni d8 s
  | .xri d8 => Sys2Proof.Machine.execXri d8 s
  | .ori d8 => Sys2Proof.Machine.execOri d8 s
  | .cpi d8 => Sys2Proof.Machine.execCpi d8 s
  | .sta a16 => Sys2Proof.Machine.execSta a16 s
  | .lda a16 => Sys2Proof.Machine.execLda a16 s
  | .shld a16 => Sys2Proof.Machine.execShld a16 s
  | .lhld a16 => Sys2Proof.Machine.execLhld a16 s
  | .jmp a16 => Sys2Proof.Machine.execJmp a16 s
  | .pchl => Sys2Proof.Machine.execPchl s
  | .jnz a16 => Sys2Proof.Machine.execJnz a16 s
  | .jz a16 => Sys2Proof.Machine.execJz a16 s
  | .jnc a16 => Sys2Proof.Machine.execJnc a16 s
  | .jc a16 => Sys2Proof.Machine.execJc a16 s
  | .jpo a16 => Sys2Proof.Machine.execJpo a16 s
  | .jpe a16 => Sys2Proof.Machine.execJpe a16 s
  | .jp a16 => Sys2Proof.Machine.execJp a16 s
  | .jm a16 => Sys2Proof.Machine.execJm a16 s
  | .call a16 => Sys2Proof.Machine.execCall a16 s
  | .cnz a16 => Sys2Proof.Machine.execCnz a16 s
  | .cz a16 => Sys2Proof.Machine.execCz a16 s
  | .cnc a16 => Sys2Proof.Machine.execCnc a16 s
  | .cc a16 => Sys2Proof.Machine.execCc a16 s
  | .cpo a16 => Sys2Proof.Machine.execCpo a16 s
  | .cpe a16 => Sys2Proof.Machine.execCpe a16 s
  | .cp a16 => Sys2Proof.Machine.execCp a16 s
  | .cm a16 => Sys2Proof.Machine.execCm a16 s
  | .ret => Sys2Proof.Machine.execRet s
  | .rnz => Sys2Proof.Machine.execRnz s
  | .rz => Sys2Proof.Machine.execRz s
  | .rnc => Sys2Proof.Machine.execRnc s
  | .rc => Sys2Proof.Machine.execRc s
  | .rpo => Sys2Proof.Machine.execRpo s
  | .rpe => Sys2Proof.Machine.execRpe s
  | .rp => Sys2Proof.Machine.execRp s
  | .rm => Sys2Proof.Machine.execRm s
  | .rst n => Sys2Proof.Machine.execRst n s
  | .ei => Sys2Proof.Machine.execEi s
  | .di => Sys2Proof.Machine.execDi s
  | .inp port => Sys2Proof.Machine.execInp port s
  | .outp port => Sys2Proof.Machine.execOutp port s
  | .hlt => Sys2Proof.Machine.execHlt s
  | .undefNop hole => Sys2Proof.Machine.execUndefNop hole s
  | .undefRet => Sys2Proof.Machine.execUndefRet s
  | .undefJmp a16 => Sys2Proof.Machine.execUndefJmp a16 s

end Sys2Proof.Machine
end

