-- ==== Sys2Proof/Machine/Step.lean ====
section
/-! DEFINITION. The only transition of the machine, `Step` (30_encoding.md R80). -/

namespace Sys2Proof.Machine

/-- `Step` (R80): fetch one instruction at PC, then execute it with PC past it. -/
def step (s : State) : Host.Outcome State Fault Refusal :=
  match s.fetchInstr.1 with
  | .ok i _ => exec i s.fetchInstr.2
  | .rejected why => .refused (.undecodable why)

/-- The host writes the bytes of a word of the opcode table where the next step fetches its instruction, up
to the longest instruction (log 3). -/
def State.withFetchWord (s : State) (nbits w : Nat) : State :=
  ((s.hostWrite s.pc (tableByte nbits w 0)).hostWrite (s.pc + 1) (tableByte nbits w 1)).hostWrite (s.pc + 2)
    (tableByte nbits w 2)

end Sys2Proof.Machine
end

