-- ==== Sys2Proof/Machine/BusTrace.lean ====
section
/-! DEFINITION. The bus operations of a step, in order (20_memory.md R59, D8, D9; log 16). The default bus
shows nothing of their order, so they are not state: this is the list a recording bus would see, written from
the pseudocode of each rule and not from the meanings. -/

namespace Sys2Proof.Machine

/-- One bus operation (R14): `rd` is `read_byte(addr)`, `wr` is `write_byte(addr, v)`. -/
inductive BusOp where
  | rd (addr : Word)
  | wr (addr : Word) (v : Byte)
deriving DecidableEq, Repr

/-- The read of an 8-bit operand: one access for M, none for a register (R22). -/
def readOps (s : State) : Operand8 → List BusOp
  | .reg _ => []
  | .m => [.rd s.hl]

/-- The write of an 8-bit operand (R22). -/
def writeOps (s : State) (v : Byte) : Operand8 → List BusOp
  | .reg _ => []
  | .m => [.wr s.hl v]

/-- The two writes of a push, high byte first (R218, D8). -/
def pushOps (s : State) (v : Word) : List BusOp :=
  [.wr (s.sp - 1) (highByte v), .wr (s.sp - 2) (lowByte v)]

/-- The two reads of a pop, low byte first (R219). -/
def popOps (s : State) : List BusOp := [.rd s.sp, .rd (s.sp + 1)]

/-- The pushes of a conditional call (R311). -/
def callOps (s : State) (k : Cond) : List BusOp := if condHolds k s.flags then pushOps s s.pc else []

/-- The reads of a conditional return (R320). -/
def returnOps (s : State) (k : Cond) : List BusOp := if condHolds k s.flags then popOps s else []

/-- The accesses an instruction makes after all its bytes are fetched, PC past them. -/
def dataOps (i : Instr) (s : State) : List BusOp :=
  match i with
  | .inr x => readOps s x ++ writeOps s (s.operand x + 1) x
  | .dcr x => readOps s x ++ writeOps s (s.operand x - 1) x
  | .mov .m .m => []
  | .mov dst src => readOps s src ++ writeOps s (s.operand src) dst
  | .stax p => [.wr (s.indexAddr p) s.a]
  | .ldax p => [.rd (s.indexAddr p)]
  | .add x | .adc x | .sub x | .sbb x | .ana x | .xra x | .ora x | .cmp x => readOps s x
  | .push p => pushOps s (s.stackPair p)
  | .pop _ => popOps s
  | .xthl => popOps s ++ [.wr s.sp s.l, .wr (s.sp + 1) s.h]
  | .mvi x d8 => writeOps s d8 x
  | .sta a16 => [.wr a16 s.a]
  | .lda a16 => [.rd a16]
  | .shld a16 => [.wr a16 s.l, .wr (a16 + 1) s.h]
  | .lhld a16 => [.rd a16, .rd (a16 + 1)]
  | .call _ | .rst _ => pushOps s s.pc
  | .cnz _ => callOps s .nz
  | .cz _ => callOps s .z
  | .cnc _ => callOps s .nc
  | .cc _ => callOps s .c
  | .cpo _ => callOps s .po
  | .cpe _ => callOps s .pe
  | .cp _ => callOps s .p
  | .cm _ => callOps s .m
  | .ret | .undefRet => popOps s
  | .rnz => returnOps s .nz
  | .rz => returnOps s .z
  | .rnc => returnOps s .nc
  | .rc => returnOps s .c
  | .rpo => returnOps s .po
  | .rpe => returnOps s .pe
  | .rp => returnOps s .p
  | .rm => returnOps s .m
  | .nop | .stc | .cmc | .cma | .daa | .rlc | .rrc | .ral | .rar => []
  | .dad _ | .inx _ | .dcx _ | .xchg | .sphl | .lxi _ _ => []
  | .adi _ | .aci _ | .sui _ | .sbi _ | .ani _ | .xri _ | .ori _ | .cpi _ => []
  | .jmp _ | .pchl | .jnz _ | .jz _ | .jnc _ | .jc _ | .jpo _ | .jpe _ | .jp _ | .jm _ => []
  | .ei | .di | .inp _ | .outp _ | .hlt | .undefNop _ | .undefJmp _ => []

/-- The `n` reads of a fetch from an address on, in ascending order (R15, R59). -/
def fetchOps (addr : Word) : Nat → List BusOp
  | 0 => []
  | n + 1 => .rd addr :: fetchOps (addr + 1) n

/-- The bus operations of the next step: the fetch of the instruction's bytes, then its data accesses. -/
def stepOps (s : State) : List BusOp :=
  fetchOps s.pc (opcodeLength (s.read8 s.pc)) ++
    match s.fetchInstr.1 with
    | .ok i _ => dataOps i s.fetchInstr.2
    | .rejected _ => []

/-- The addresses a list of bus operations reads. -/
def readAddrs : List BusOp → List Word
  | [] => []
  | .rd addr :: rest => addr :: readAddrs rest
  | .wr _ _ :: rest => readAddrs rest

/-- The addresses a list of bus operations writes. -/
def writeAddrs : List BusOp → List Word
  | [] => []
  | .rd _ :: rest => writeAddrs rest
  | .wr addr _ :: rest => addr :: writeAddrs rest

/-- The memory after the writes of a list of bus operations, in order (R52, R63). -/
def Memory.afterOps (m : Memory) : List BusOp → Memory
  | [] => m
  | .rd _ :: rest => Memory.afterOps m rest
  | .wr addr v :: rest => Memory.afterOps (m.writeAt addr.toNat v) rest

end Sys2Proof.Machine
end

