-- ==== Sys2Proof/Safety.lean ====
section
/-! DEFINITION. The terms in which claims are stated: the invariant of a state, the parked states, what an
instruction leaves alone, and the flag rules of an 8-bit result in the spec's own words. A run of this machine
is safe always: no step faults (70_reset_and_hazards.md R435). -/

namespace Sys2Proof.Machine

/-- The invariant of a state: its memory is in canonical form. Every other field may hold any value. -/
def State.Inv (s : State) : Prop := s.mem.wf = true

/-- `Parked(s)` of 70_reset_and_hazards.md R434: the byte at PC is HLT's. -/
def State.Parked (s : State) : Prop := s.read8 s.pc = 0x76

/-- Every register but those listed is unchanged. -/
def KeepsRegs (but : List Reg8) (s t : State) : Prop := ∀ r, r ∉ but → t.reg r = s.reg r

/-- Every byte of memory but those at the listed addresses reads as before. -/
def KeepsMem (but : List Word) (s t : State) : Prop := ∀ addr, addr ∉ but → t.read8 addr = s.read8 addr

/-- The port seam, and what passed through it, is unchanged. -/
def KeepsPorts (s t : State) : Prop :=
  t.seam = s.seam ∧ t.portReads = s.portReads ∧ t.portWrites = s.portWrites

/-- The frame of an instruction (R35): every register but `regs`, every byte but those at `stored`, INTE and
the ports are unchanged. SP, PC and the flags are said beside it. -/
def Frame (regs : List Reg8) (stored : List Word) (s t : State) : Prop :=
  KeepsRegs regs s t ∧ KeepsMem stored s t ∧ t.inte = s.inte ∧ KeepsPorts s t

/-- The register an 8-bit destination operand writes: none for M. -/
def regsOf : Operand8 → List Reg8
  | .reg r => [r]
  | .m => []

/-- The address an 8-bit destination operand stores to: HL for M, none for a register (R22). -/
def storedBy (s : State) : Operand8 → List Word
  | .reg _ => []
  | .m => [s.hl]

/-- The registers a pair operand writes: none for SP (R84). -/
def pairRegs : Pair → List Reg8
  | .bc => [.b, .c]
  | .de => [.d, .e]
  | .hl => [.h, .l]
  | .sp => []

/-- The registers POP writes: A for the PSW (R224 to R227). -/
def stackRegs : StackPair → List Reg8
  | .bc => [.b, .c]
  | .de => [.d, .e]
  | .hl => [.h, .l]
  | .psw => [.a]

/-- The high half of a PUSH and POP operand (R21, R33). -/
def stackHigh (s : State) : StackPair → Byte
  | .bc => s.b
  | .de => s.d
  | .hl => s.h
  | .psw => s.a

/-- The low half of a PUSH and POP operand (R21, R33). -/
def stackLow (s : State) : StackPair → Byte
  | .bc => s.c
  | .de => s.e
  | .hl => s.l
  | .psw => s.flags.pack

/-- SP, PC and the flags are unchanged. -/
def KeepsControl (s t : State) : Prop := t.sp = s.sp ∧ t.pc = s.pc ∧ t.flags = s.flags

/-- The parity of R110 in its second form: `1 ^ v[7] ^ v[6] ^ ... ^ v[0]`. -/
def evenParity (v : Byte) : Bool :=
  true ^^ v.getLsbD 7 ^^ v.getLsbD 6 ^^ v.getLsbD 5 ^^ v.getLsbD 4 ^^ v.getLsbD 3 ^^ v.getLsbD 2
    ^^ v.getLsbD 1 ^^ v.getLsbD 0

/-- S, Z and P are those of a result (R26, R27, R29). -/
def SzpOf (f : Flags) (r : Byte) : Prop :=
  (f.s = true ↔ 128 ≤ r.toNat) ∧ (f.z = true ↔ r.toNat = 0) ∧ f.p = evenParity r

/-- `t` is `s` after adding `x` and a carry to A (R112, R180): the sum, all five flags, nothing else. -/
def Added (s t : State) (x : Byte) (cin : Bool) : Prop :=
  t.a.toNat = (s.a.toNat + x.toNat + cin.toNat) % 256 ∧ SzpOf t.flags t.a ∧
  (t.flags.cy = true ↔ 256 ≤ s.a.toNat + x.toNat + cin.toNat) ∧
  (t.flags.ac = true ↔ 16 ≤ s.a.toNat % 16 + x.toNat % 16 + cin.toNat) ∧
  t.sp = s.sp ∧ t.pc = s.pc ∧ Frame [.a] [] s t

/-- The flags after subtracting `x` and a borrow from A (R113): CY and AC are borrows. -/
def BorrowFlags (s t : State) (x : Byte) (bin : Bool) : Prop :=
  (t.flags.cy = true ↔ s.a.toNat < x.toNat + bin.toNat) ∧
  (t.flags.ac = true ↔ s.a.toNat % 16 < x.toNat % 16 + bin.toNat)

/-- `t` is `s` after subtracting `x` and a borrow from A (R113, R184): `a - b - bin = r - 256 * cy` exactly
(R119), all five flags, nothing else. -/
def Subtracted (s t : State) (x : Byte) (bin : Bool) : Prop :=
  (s.a.toNat : Int) - x.toNat - bin.toNat = t.a.toNat - 256 * t.flags.cy.toNat ∧ SzpOf t.flags t.a ∧
  BorrowFlags s t x bin ∧ t.sp = s.sp ∧ t.pc = s.pc ∧ Frame [.a] [] s t

/-- `t` is `s` after comparing A with `x` (R194): the flags of the difference, nothing else. -/
def Compared (s t : State) (x : Byte) : Prop :=
  SzpOf t.flags (s.a - x) ∧ (t.flags.z = true ↔ s.a = x) ∧ BorrowFlags s t x false ∧
  t.sp = s.sp ∧ t.pc = s.pc ∧ Frame [] [] s t

/-- `t` is `s` after a logical operation with result `r` (R114, R188): CY and AC cleared, nothing else. -/
def LogicTo (s t : State) (r : Byte) : Prop :=
  t.a = r ∧ SzpOf t.flags r ∧ t.flags.cy = false ∧ t.flags.ac = false ∧
  t.sp = s.sp ∧ t.pc = s.pc ∧ Frame [.a] [] s t

/-- `t` is `s` after a call (R310): the return address is on the stack, PC at the target, nothing else. -/
def CalledTo (s t : State) (target : Word) : Prop :=
  t.read8 (s.sp - 1) = highByte s.pc ∧ t.read8 (s.sp - 2) = lowByte s.pc ∧ t.sp = s.sp - 2 ∧
  t.pc = target ∧ t.flags = s.flags ∧ Frame [] [s.sp - 1, s.sp - 2] s t

/-- What a row of the flag table of R25 writes. -/
inductive FlagEffect where
  | none
  | carryOnly
  | allButCarry
  | logic
  | all
deriving DecidableEq, Repr

/-- The flag table of 10_state.md R25, row by row. -/
def flagEffect : Instr → FlagEffect
  | .add _ | .adc _ | .sub _ | .sbb _ | .cmp _ | .adi _ | .aci _ | .sui _ | .sbi _ | .cpi _ => .all
  | .ana _ | .xra _ | .ora _ | .ani _ | .xri _ | .ori _ => .logic
  | .inr _ | .dcr _ => .allButCarry
  | .daa => .all
  | .rlc | .rrc | .ral | .rar | .dad _ | .stc | .cmc => .carryOnly
  | .pop .psw => .all
  | .pop .bc | .pop .de | .pop .hl => .none
  | .mov _ _ | .mvi _ _ | .lxi _ _ | .ldax _ | .stax _ | .lda _ | .sta _ | .lhld _ | .shld _ => .none
  | .inx _ | .dcx _ | .cma | .xchg | .xthl | .sphl | .pchl | .push _ => .none
  | .jmp _ | .jnz _ | .jz _ | .jnc _ | .jc _ | .jpo _ | .jpe _ | .jp _ | .jm _ => .none
  | .call _ | .cnz _ | .cz _ | .cnc _ | .cc _ | .cpo _ | .cpe _ | .cp _ | .cm _ => .none
  | .ret | .rnz | .rz | .rnc | .rc | .rpo | .rpe | .rp | .rm | .rst _ => .none
  | .ei | .di | .inp _ | .outp _ | .hlt | .nop | .undefNop _ | .undefRet | .undefJmp _ => .none

/-- The instructions that may leave PC elsewhere than at the next instruction (10_state.md R24). -/
def movesPc : Instr → Bool
  | .jmp _ | .pchl | .jnz _ | .jz _ | .jnc _ | .jc _ | .jpo _ | .jpe _ | .jp _ | .jm _ => true
  | .call _ | .cnz _ | .cz _ | .cnc _ | .cc _ | .cpo _ | .cpe _ | .cp _ | .cm _ => true
  | .ret | .rnz | .rz | .rnc | .rc | .rpo | .rpe | .rp | .rm | .rst _ => true
  | .undefRet | .undefJmp _ | .hlt => true
  | _ => false

/-- The instructions that may write SP (10_state.md R23). -/
def movesSp : Instr → Bool
  | .lxi .sp _ | .inx .sp | .dcx .sp | .sphl | .push _ | .pop _ => true
  | .call _ | .cnz _ | .cz _ | .cnc _ | .cc _ | .cpo _ | .cpe _ | .cp _ | .cm _ => true
  | .ret | .rnz | .rz | .rnc | .rc | .rpo | .rpe | .rp | .rm | .rst _ | .undefRet => true
  | _ => false

/-- A valid packed BCD byte: each nibble 0 to 9 (00_scope.md R19). -/
def IsBcd (v : Byte) : Prop := v.toNat / 16 ≤ 9 ∧ v.toNat % 16 ≤ 9

/-- The number a packed BCD byte stands for. -/
def bcdValue (v : Byte) : Nat := v.toNat / 16 * 10 + v.toNat % 16

end Sys2Proof.Machine
end

