-- ==== Sys2Proof/Certificates/Slice0/Obligations.lean ====
section
/-! DEFINITION. The statements about the machine, each an obligation for the provers. "The model's choice"
in a docstring names the log entry, or the decision of the spec, that a clause rests on. Executing starts with
PC past the instruction, so `s.pc` in a statement about `exec` is the address of the next instruction. -/

open Sys2Proof Sys2Proof.Machine

/-! ## Decoding and stepping -/

/-- Words written out from the map of 30_encoding.md R88 decode to the instructions they stand for, one word at
least of every family. The numbering is the spec's general knowledge (log 8), the order of the operand bytes its
decision D1 (log 9), 0xCB as JMP and 0xED as NOP its resolutions C1 and C7 (log 24). -/
def Obligations.DecodeWordsOfTheSpec : Prop :=
  decode [0x40] = .ok (.mov (.reg .b) (.reg .b)) [] ∧ decode [0x41] = .ok (.mov (.reg .b) (.reg .c)) [] ∧
  decode [0x53] = .ok (.mov (.reg .d) (.reg .e)) [] ∧ decode [0x65] = .ok (.mov (.reg .h) (.reg .l)) [] ∧
  decode [0x77] = .ok (.mov .m (.reg .a)) [] ∧ decode [0x5E] = .ok (.mov (.reg .e) .m) [] ∧
  decode [0x34] = .ok (.inr .m) [] ∧ decode [0x0D] = .ok (.dcr (.reg .c)) [] ∧
  decode [0x1A] = .ok (.ldax .de) [] ∧ decode [0xBE] = .ok (.cmp .m) [] ∧ decode [0x9F] = .ok (.sbb (.reg .a)) [] ∧
  decode [0xF5] = .ok (.push .psw) [] ∧ decode [0xC1] = .ok (.pop .bc) [] ∧ decode [0x39] = .ok (.dad .sp) [] ∧
  decode [0x13] = .ok (.inx .de) [] ∧ decode [0x2B] = .ok (.dcx .hl) [] ∧
  decode [0x01, 0x34, 0x12] = .ok (.lxi .bc 0x1234) [] ∧ decode [0x3E, 0x05] = .ok (.mvi (.reg .a) 0x05) [] ∧
  decode [0xC6, 0x03, 0x76] = .ok (.adi 0x03) [0x76] ∧ decode [0x32, 0xB3, 0x05] = .ok (.sta 0x05B3) [] ∧
  decode [0xC2, 0x50, 0x01] = .ok (.jnz 0x0150) [] ∧ decode [0xEC, 0x00, 0x02] = .ok (.cpe 0x0200) [] ∧
  decode [0xF8] = .ok .rm [] ∧ decode [0xD7] = .ok (.rst 2) [] ∧ decode [0x76] = .ok .hlt [] ∧
  decode [0xDB, 0x01] = .ok (.inp 0x01) [] ∧ decode [0xED] = .ok (.undefNop .xED) [] ∧
  decode [0xD9] = .ok .undefRet [] ∧ decode [0xCB, 0x00, 0x3E] = .ok (.undefJmp 0x3E00) []

/-- 30_encoding.md R80: a step executes the instruction that the bytes at PC decode to, with PC past it. -/
def Obligations.StepRunsTheDecodedInstruction : Prop :=
  ∀ (s : State) (i : Instr) (rest : List Byte),
    decode [s.read8 s.pc, s.read8 (s.pc + 1), s.read8 (s.pc + 2)] = .ok i rest →
      i.wf = true ∧ step s = exec i (s.setPc (s.pc + BitVec.ofNat 16 i.length))

/-- 70_reset_and_hazards.md R435: `Step` is total, and so is the execution of every instruction. -/
def Obligations.EveryStepHasANextState : Prop :=
  (∀ s : State, ∃ t, step s = .next t) ∧ ∀ (i : Instr) (s : State), i.wf = true → ∃ t, exec i s = .next t

/-- 30_encoding.md R90: the decoder is total on any bytes and never refuses, whatever the operand bytes; no
step ends in an illegal instruction; no bytes spell MOV M,M, whose slot is HLT. -/
def Obligations.DecoderNeverRefuses : Prop :=
  (∀ b1 b2 b3 : Byte, ∃ i rest, decode [b1, b2, b3] = .ok i rest) ∧
  (∀ (s : State) (why : Refusal), step s ≠ .refused why) ∧
  (∀ (bytes rest : List Byte), decode bytes ≠ .ok (.mov .m .m) rest) ∧
  ∀ rest : List Byte, decode (0x76 :: rest) = .ok .hlt rest

/-- Decoding an encoded instruction gives it back, with every operand at every value, whatever bytes follow. -/
def Obligations.DecodeOfEncodeIsTheInstruction : Prop :=
  ∀ (i : Instr) (rest : List Byte), i.wf = true → decode (encode i ++ rest) = .ok i rest

/-- Every byte sequence has one meaning: what decodes is an instruction, and its encoding is the bytes. -/
def Obligations.EncodeOfDecodeIsTheBytes : Prop :=
  ∀ (bytes rest : List Byte) (i : Instr), decode bytes = .ok i rest → i.wf = true ∧ encode i ++ rest = bytes

/-- 30_encoding.md R82, R91: the opcode byte alone decides the length; it is rejected only where operand
bytes are missing; 27 opcodes have length 3, 18 length 2, 211 length 1 (numbering: log 8). -/
def Obligations.LengthIsDecidedByTheOpcodeByte : Prop :=
  (∀ (op : Byte) (more rest : List Byte) (i : Instr), decode (op :: more) = .ok i rest →
    i.length = opcodeLength op ∧ rest = more.drop (opcodeLength op - 1)) ∧
  (∀ (op : Byte) (more : List Byte),
    (∃ why, decode (op :: more) = .rejected why) ↔ more.length + 1 < opcodeLength op) ∧
  ((List.range 256).countP fun n => opcodeLength (BitVec.ofNat 8 n) == 3) = 27 ∧
  ((List.range 256).countP fun n => opcodeLength (BitVec.ofNat 8 n) == 2) = 18 ∧
  ((List.range 256).countP fun n => opcodeLength (BitVec.ofNat 8 n) == 1) = 211

/-! ## State, reset and memory -/

/-- 10_state.md R39: the state after construction, for every RESET_PC, every memory of the host and either
port seam. -/
def Obligations.ConstructionZeroesTheState : Prop :=
  ∀ (resetPc : Word) (mem : Memory) (seam : PortSeam), ∃ s, s = State.construct resetPc mem seam ∧
    (∀ r, s.reg r = 0x00) ∧ s.sp = 0x0000 ∧ s.pc = resetPc ∧
    s.flags.s = false ∧ s.flags.z = false ∧ s.flags.ac = false ∧ s.flags.p = false ∧ s.flags.cy = false ∧
    s.inte = false ∧ s.bc = 0x0000 ∧ s.de = 0x0000 ∧ s.hl = 0x0000 ∧ s.flags.pack = 0x02 ∧ s.psw = 0x0002 ∧
    ∀ addr, s.read8 addr = mem.readAt addr.toNat

/-- The invariant holds at reset, and at every construction from a canonical memory. That reset lists nothing
in memory, starts at RESET_PC 0 and has the stub seam is the model's choice (logs 1, 2 and 4). -/
def Obligations.ResetMeetsTheInvariant : Prop :=
  State.reset.Inv ∧ State.reset = State.construct 0x0000 [] .stub ∧
  ∀ (resetPc : Word) (mem : Memory) (seam : PortSeam), mem.wf = true → (State.construct resetPc mem seam).Inv

/-- Every step from a state with canonical memory leads to one with canonical memory, and so does every write
of the host between steps. -/
def Obligations.EveryStepKeepsTheInvariant : Prop :=
  (∀ s t : State, s.Inv → step s = .next t → t.Inv) ∧
  ∀ (s : State) (addr : Word) (v : Byte), s.Inv → (s.hostWrite addr v).Inv

/-- 20_memory.md R51, R52: a read returns the byte of the most recent write to the address, or the initial
content if there is none; writes change nothing but memory. -/
def Obligations.MemoryReadsTheLastWrite : Prop :=
  ∀ (s : State) (writes : List (Word × Byte)), ∃ t, t = writes.foldl (fun u w => u.write8 w.1 w.2) s ∧
    (∀ addr, t.read8 addr =
      match writes.reverse.find? (fun w => w.1 == addr) with
      | some w => w.2
      | none => s.read8 addr) ∧
    { t with mem := s.mem } = s

/-- Equal memories are equal data: two canonical memories that read the same everywhere are the same list.
The form is the model's choice (log 2). -/
def Obligations.CanonicalMemoriesAreEqual : Prop :=
  ∀ m n : Memory, m.wf = true → n.wf = true →
    (∀ addr : Word, m.readAt addr.toNat = n.readAt addr.toNat) → m = n

/-- 10_state.md R21: the pairs are views. Writing a pair writes its halves, reading it joins them, and what
is written is read back; no other general register changes. -/
def Obligations.PairsAreViews : Prop :=
  (∀ s : State, s.bc.toNat = s.b.toNat * 256 + s.c.toNat ∧ s.de.toNat = s.d.toNat * 256 + s.e.toNat ∧
    s.hl.toNat = s.h.toNat * 256 + s.l.toNat) ∧
  (∀ (s : State) (v : Word),
    ((s.setPair .bc v).b.toNat = v.toNat / 256 ∧ (s.setPair .bc v).c.toNat = v.toNat % 256 ∧
      (s.setPair .bc v).bc = v) ∧
    ((s.setPair .de v).d.toNat = v.toNat / 256 ∧ (s.setPair .de v).e.toNat = v.toNat % 256 ∧
      (s.setPair .de v).de = v) ∧
    ((s.setPair .hl v).h.toNat = v.toNat / 256 ∧ (s.setPair .hl v).l.toNat = v.toNat % 256 ∧
      (s.setPair .hl v).hl = v)) ∧
  (∀ (s : State) (p : Pair) (v : Word), KeepsRegs (pairRegs p) s (s.setPair p v)) ∧
  ∀ (s : State) (hi lo : Byte), ((s.setReg .b hi).setReg .c lo).bc.toNat = hi.toNat * 256 + lo.toNat ∧
    ((s.setReg .d hi).setReg .e lo).de.toNat = hi.toNat * 256 + lo.toNat ∧
    ((s.setReg .h hi).setReg .l lo).hl.toNat = hi.toNat * 256 + lo.toNat

/-- 40_flag_alu_units.md R110, R111, R112, R115: Parity, SZP, Add8, Inc8 and Dec8 as exact arithmetic. -/
def Obligations.FlagUnitsAreExact : Prop :=
  (∀ v : Byte, (parity v = true ↔ ((List.range 8).map fun k => v.toNat / 2 ^ k % 2).sum % 2 = 0) ∧
    parity v = evenParity v) ∧
  (∀ (r : Byte) (ac cy : Bool), SzpOf (Flags.ofResult r ac cy) r) ∧
  (∀ (a b : Byte) (cin : Bool),
    (add8 a b cin).r.toNat + 256 * (add8 a b cin).cy.toNat = a.toNat + b.toNat + cin.toNat ∧
    ((add8 a b cin).ac = true ↔ 15 < a.toNat % 16 + b.toNat % 16 + cin.toNat)) ∧
  ∀ v : Byte, (inc8 v).1.toNat = (v.toNat + 1) % 256 ∧ ((inc8 v).2 = true ↔ (inc8 v).1.toNat % 16 = 0) ∧
    (inc8 v).2 = (add8 v 1 false).ac ∧
    ((dec8 v).1.toNat + 1) % 256 = v.toNat ∧ ((dec8 v).2 = true ↔ v.toNat % 16 = 0) ∧
    (dec8 v).2 = (sub8 v 1 false).ac

/-- 10_state.md R32: the flag byte is S Z 0 AC 0 P 1 CY, and unpacking restores the flags. That the other
three bits of a popped byte are ignored is the spec's decision D15 (log 20). -/
def Obligations.PackedFlagsRoundTrip : Prop :=
  (∀ f : Flags, f.pack.toNat =
      f.s.toNat * 128 + f.z.toNat * 64 + f.ac.toNat * 16 + f.p.toNat * 4 + 2 + f.cy.toNat ∧
    Flags.unpack f.pack = f) ∧
  ∀ b : Byte, (Flags.unpack b).pack = (b &&& 0xD5) ||| 0x02

/-! ## 41: NOP, carry, increment, decrement, complement, decimal adjust; 48: the undefined bytes -/

/-- 41_nop_carry_incdec_adjust.md R130, R131, R132: NOP, STC and CMC with their bytes (log 8). -/
def Obligations.NopAndCarryInstructions : Prop :=
  encode .nop = [0x00] ∧ encode .stc = [0x37] ∧ encode .cmc = [0x3F] ∧
  ∀ s : State, exec .nop s = .next s ∧
    exec .stc s = .next { s with flags := { s.flags with cy := true } } ∧
    (∃ t, exec .cmc s = .next t ∧ t.flags.cy.toNat = 1 - s.flags.cy.toNat ∧
      { t with flags := { t.flags with cy := s.flags.cy } } = s)

/-- 48_undefined_opcodes.md R370, R371, R372: a step at one of the ten NOP holes moves PC by 1 and changes
nothing else; a step at 0xD9 pops PC and changes nothing else, exactly as RET. -/
def Obligations.UndefinedBytesRunAsNopAndRet : Prop :=
  (∀ s : State, s.read8 s.pc ∈ [0x08, 0x10, 0x18, 0x20, 0x28, 0x30, 0x38, 0xDD, 0xED, 0xFD] →
    step s = .next { s with pc := s.pc + 1 }) ∧
  (∀ s : State, s.read8 s.pc = 0xD9 →
    ∃ t, step s = .next t ∧ t.pc.toNat = (s.read8 (s.sp + 1)).toNat * 256 + (s.read8 s.sp).toNat ∧
      t.sp = s.sp + 2 ∧ { t with pc := s.pc, sp := s.sp } = s) ∧
  ∀ (hole : NopHole) (s : State), exec (.undefNop hole) s = .next s ∧ exec .undefRet s = exec .ret s ∧
    exec .undefRet s = .next { s with pc := joinBytes (s.read8 (s.sp + 1)) (s.read8 s.sp), sp := s.sp + 2 }

/-- 41_nop_carry_incdec_adjust.md R133 to R136: INR and DCR of a register or M: the new value, S Z P and AC
from it, CY unaffected, nothing else changed (bytes: log 8). AC of DCR as a borrow is log 18. -/
def Obligations.IncrementAndDecrement : Prop :=
  ∀ (x : Operand8) (s : State),
    encode (.inr x) = [BitVec.ofNat 8 (0x04 + 8 * x.code.toNat)] ∧
    encode (.dcr x) = [BitVec.ofNat 8 (0x05 + 8 * x.code.toNat)] ∧
    (∃ t, exec (.inr x) s = .next t ∧ (t.operand x).toNat = ((s.operand x).toNat + 1) % 256 ∧
      SzpOf t.flags (t.operand x) ∧ (t.flags.ac = true ↔ (t.operand x).toNat % 16 = 0) ∧
      t.flags.cy = s.flags.cy ∧ t.sp = s.sp ∧ t.pc = s.pc ∧ Frame (regsOf x) (storedBy s x) s t) ∧
    (∃ t, exec (.dcr x) s = .next t ∧ (t.operand x).toNat = ((s.operand x).toNat + 255) % 256 ∧
      SzpOf t.flags (t.operand x) ∧ (t.flags.ac = true ↔ (s.operand x).toNat % 16 = 0) ∧
      t.flags.cy = s.flags.cy ∧ t.sp = s.sp ∧ t.pc = s.pc ∧ Frame (regsOf x) (storedBy s x) s t)

/-- 41_nop_carry_incdec_adjust.md R137 and 43_accumulator_alu_rotate.md R196 to R199: CMA and the four
rotates as arithmetic on A. The directions of the rotates are the spec's general knowledge (log 10). -/
def Obligations.ComplementAndRotates : Prop :=
  encode .cma = [0x2F] ∧ encode .rlc = [0x07] ∧ encode .rrc = [0x0F] ∧ encode .ral = [0x17] ∧
  encode .rar = [0x1F] ∧
  ∀ s : State,
    (∃ t, exec .cma s = .next t ∧ t.a.toNat = 255 - s.a.toNat ∧ KeepsControl s t ∧ Frame [.a] [] s t) ∧
    (∃ t, exec .rlc s = .next t ∧ t.a.toNat = s.a.toNat * 2 % 256 + s.a.toNat / 128 ∧
      t.flags = { s.flags with cy := decide (128 ≤ s.a.toNat) } ∧ t.sp = s.sp ∧ t.pc = s.pc ∧
      Frame [.a] [] s t) ∧
    (∃ t, exec .rrc s = .next t ∧ t.a.toNat = s.a.toNat / 2 + 128 * (s.a.toNat % 2) ∧
      t.flags = { s.flags with cy := decide (s.a.toNat % 2 = 1) } ∧ t.sp = s.sp ∧ t.pc = s.pc ∧
      Frame [.a] [] s t) ∧
    (∃ t, exec .ral s = .next t ∧ t.a.toNat = s.a.toNat * 2 % 256 + s.flags.cy.toNat ∧
      t.flags = { s.flags with cy := decide (128 ≤ s.a.toNat) } ∧ t.sp = s.sp ∧ t.pc = s.pc ∧
      Frame [.a] [] s t) ∧
    (∃ t, exec .rar s = .next t ∧ t.a.toNat = s.a.toNat / 2 + 128 * s.flags.cy.toNat ∧
      t.flags = { s.flags with cy := decide (s.a.toNat % 2 = 1) } ∧ t.sp = s.sp ∧ t.pc = s.pc ∧
      Frame [.a] [] s t)

/-- 40_flag_alu_units.md R116 and 41_nop_carry_incdec_adjust.md R138: DAA in the closed forms of R116. CY
never cleared, the carry of the first addition and AC afterwards are decisions D2 and D3 (log 11); its byte is
log 8. -/
def Obligations.DecimalAdjustClosedForm : Prop :=
  encode .daa = [0x27] ∧
  ∀ s : State, ∃ t, exec .daa s = .next t ∧
    (t.flags.cy = true ↔ s.flags.cy = true ∨ 9 < s.a.toNat / 16 ∨ (9 ≤ s.a.toNat / 16 ∧ 9 < s.a.toNat % 16)) ∧
    (t.flags.ac = true ↔ 9 < s.a.toNat % 16) ∧
    t.a.toNat = (s.a.toNat + (if 9 < s.a.toNat % 16 ∨ s.flags.ac = true then 6 else 0)
      + (if t.flags.cy = true then 0x60 else 0)) % 256 ∧
    SzpOf t.flags t.a ∧ t.sp = s.sp ∧ t.pc = s.pc ∧ Frame [.a] [] s t

/-- 95_test_vectors.md, properties worth proving: for valid packed BCD operands, ADD (or ADI) then DAA gives
the packed BCD of the sum modulo 100, with CY the decimal carry. -/
def Obligations.BcdAdditionIsDecimal : Prop :=
  (∀ (x : Operand8) (s : State), IsBcd s.a → IsBcd (s.operand x) →
    ∃ t u, exec (.add x) s = .next t ∧ exec .daa t = .next u ∧ IsBcd u.a ∧
      bcdValue u.a = (bcdValue s.a + bcdValue (s.operand x)) % 100 ∧
      (u.flags.cy = true ↔ 99 < bcdValue s.a + bcdValue (s.operand x))) ∧
  ∀ (d8 : Byte) (s : State), IsBcd s.a → IsBcd d8 →
    ∃ t u, exec (.adi d8) s = .next t ∧ exec .daa t = .next u ∧ IsBcd u.a ∧
      bcdValue u.a = (bcdValue s.a + bcdValue d8) % 100 ∧ (u.flags.cy = true ↔ 99 < bcdValue s.a + bcdValue d8)

/-! ## 42: moves and indirect access -/

/-- 42_move_indirect.md R160, R161, R162: MOV copies the operand, the address of M taken from the old HL,
and changes nothing else (bytes: log 8). -/
def Obligations.MovCopiesTheOperand : Prop :=
  ∀ (dst src : Operand8) (s : State), (Instr.mov dst src).wf = true →
    encode (.mov dst src) = [BitVec.ofNat 8 (0x40 + 8 * dst.code.toNat + src.code.toNat)] ∧
    ∃ t, exec (.mov dst src) s = .next t ∧ t.operand dst = s.operand src ∧ KeepsControl s t ∧
      Frame (regsOf dst) (storedBy s dst) s t

/-- 42_move_indirect.md R163: MOV M,M is no instruction; its slot 0x76 is HLT, which makes no data access;
63 opcode bytes are MOV. That the term is refused under the name `notEncoded` is the model's choice (log 23). -/
def Obligations.MovMemoryToMemoryIsNoInstruction : Prop :=
  (Instr.mov .m .m).wf = false ∧ (∀ bytes rest, decode bytes ≠ .ok (.mov .m .m) rest) ∧
  (∀ rest, decode (0x76 :: rest) = .ok .hlt rest) ∧ (∀ s : State, dataOps .hlt s = []) ∧
  ((List.range 256).countP fun n =>
    match decode [BitVec.ofNat 8 n] with
    | .ok (.mov _ _) _ => true
    | _ => false) = 63 ∧
  ∀ s : State, exec (.mov .m .m) s = .refused .notEncoded

/-- 42_move_indirect.md R164 to R167: STAX stores A at the address in BC or DE, LDAX loads it from there, and
nothing else changes (bytes: log 8). -/
def Obligations.StaxAndLdax : Prop :=
  encode (.stax .bc) = [0x02] ∧ encode (.stax .de) = [0x12] ∧ encode (.ldax .bc) = [0x0A] ∧
  encode (.ldax .de) = [0x1A] ∧
  ∀ (p : IndexPair) (s : State), ∃ addr : Word,
    addr = (match p with | .bc => joinBytes s.b s.c | .de => joinBytes s.d s.e) ∧
    (∃ t, exec (.stax p) s = .next t ∧ t.read8 addr = s.a ∧ KeepsControl s t ∧ Frame [] [addr] s t) ∧
    (∃ t, exec (.ldax p) s = .next t ∧ t.a = s.read8 addr ∧ KeepsControl s t ∧ Frame [.a] [] s t)

/-! ## 43: accumulator arithmetic and logic -/

/-- 43_accumulator_alu_rotate.md R180 to R183: ADD and ADC of a register or M (bytes: log 8). -/
def Obligations.AddAndAddWithCarry : Prop :=
  ∀ (x : Operand8) (s : State),
    encode (.add x) = [BitVec.ofNat 8 (0x80 + x.code.toNat)] ∧
    encode (.adc x) = [BitVec.ofNat 8 (0x88 + x.code.toNat)] ∧
    (∃ t, exec (.add x) s = .next t ∧ Added s t (s.operand x) false) ∧
    (∃ t, exec (.adc x) s = .next t ∧ Added s t (s.operand x) s.flags.cy)

/-- 43_accumulator_alu_rotate.md R184 to R187: SUB and SBB of a register or M (bytes: log 8; AC as a borrow
is decision D19, log 18). -/
def Obligations.SubtractAndSubtractWithBorrow : Prop :=
  ∀ (x : Operand8) (s : State),
    encode (.sub x) = [BitVec.ofNat 8 (0x90 + x.code.toNat)] ∧
    encode (.sbb x) = [BitVec.ofNat 8 (0x98 + x.code.toNat)] ∧
    (∃ t, exec (.sub x) s = .next t ∧ Subtracted s t (s.operand x) false) ∧
    (∃ t, exec (.sbb x) s = .next t ∧ Subtracted s t (s.operand x) s.flags.cy)

/-- 43_accumulator_alu_rotate.md R194, R195 and 45_immediate_direct.md R273: CMP and CPI leave A unchanged
and set the flags exactly as SUB and SUI would (bytes: log 8; AC as a borrow: log 18). -/
def Obligations.CompareSetsTheFlagsOfSubtract : Prop :=
  (∀ (x : Operand8) (s : State), encode (.cmp x) = [BitVec.ofNat 8 (0xB8 + x.code.toNat)] ∧
    ∃ t u, exec (.cmp x) s = .next t ∧ exec (.sub x) s = .next u ∧ Compared s t (s.operand x) ∧
      t.flags = u.flags) ∧
  ∀ (d8 : Byte) (s : State), encode (.cpi d8) = [0xFE, d8] ∧
    ∃ t u, exec (.cpi d8) s = .next t ∧ exec (.sui d8) s = .next u ∧ Compared s t d8 ∧ t.flags = u.flags

/-- 43_accumulator_alu_rotate.md R188 to R193: ANA, XRA and ORA of a register or M clear CY and AC (bytes:
log 8; AC of ANA is decision D4, log 12). -/
def Obligations.LogicClearsTheCarries : Prop :=
  ∀ (x : Operand8) (s : State),
    encode (.ana x) = [BitVec.ofNat 8 (0xA0 + x.code.toNat)] ∧
    encode (.xra x) = [BitVec.ofNat 8 (0xA8 + x.code.toNat)] ∧
    encode (.ora x) = [BitVec.ofNat 8 (0xB0 + x.code.toNat)] ∧
    (∃ t, exec (.ana x) s = .next t ∧ LogicTo s t (s.a &&& s.operand x)) ∧
    (∃ t, exec (.xra x) s = .next t ∧ LogicTo s t (s.a ^^^ s.operand x)) ∧
    (∃ t, exec (.ora x) s = .next t ∧ LogicTo s t (s.a ||| s.operand x))

/-! ## 44: the stack and the pairs -/

/-- 44_stack_pair.md R218, R220 to R223: PUSH stores the high half at SP - 1 and the low half at SP - 2, both
from the old SP, and changes SP and nothing else (bytes: log 8; wrapping addresses: log 14). -/
def Obligations.PushStoresThePair : Prop :=
  ∀ (p : StackPair) (s : State), encode (.push p) = [BitVec.ofNat 8 (0xC5 + 16 * p.code.toNat)] ∧
    ∃ t, exec (.push p) s = .next t ∧ t.read8 (s.sp - 1) = stackHigh s p ∧
      t.read8 (s.sp - 2) = stackLow s p ∧ t.sp = s.sp - 2 ∧ t.pc = s.pc ∧ t.flags = s.flags ∧
      Frame [] [s.sp - 1, s.sp - 2] s t

/-- 44_stack_pair.md R224 to R227: POP loads the low half from SP and the high half from SP + 1; POP PSW
restores A and the five flags; SP moves by 2 and nothing else changes (bytes: log 8; bits 5, 3 and 1 of the
popped flags: log 20). -/
def Obligations.PopLoadsThePair : Prop :=
  ∀ (p : StackPair) (s : State), encode (.pop p) = [BitVec.ofNat 8 (0xC1 + 16 * p.code.toNat)] ∧
    ∃ t, exec (.pop p) s = .next t ∧ stackHigh t p = s.read8 (s.sp + 1) ∧ t.sp = s.sp + 2 ∧ t.pc = s.pc ∧
      Frame (stackRegs p) [] s t ∧
      (if p = .psw then
        (t.flags.s = true ↔ (s.read8 s.sp).toNat / 128 % 2 = 1) ∧
        (t.flags.z = true ↔ (s.read8 s.sp).toNat / 64 % 2 = 1) ∧
        (t.flags.ac = true ↔ (s.read8 s.sp).toNat / 16 % 2 = 1) ∧
        (t.flags.p = true ↔ (s.read8 s.sp).toNat / 4 % 2 = 1) ∧
        (t.flags.cy = true ↔ (s.read8 s.sp).toNat % 2 = 1)
      else stackLow t p = s.read8 s.sp ∧ t.flags = s.flags)

/-- 44_stack_pair.md R219: a pop reads the low byte at SP first and the high byte at SP + 1, moves SP by 2 and
leaves memory alone; a push, then anything that keeps SP and memory, then a pop of the same pair restores the
pair and SP, for the PSW A and the five flags. That the low byte is read first is decision D8 (log 16). -/
def Obligations.PushThenPopRestoresThePair : Prop :=
  (∀ s : State, s.pop16.1.toNat = (s.read8 (s.sp + 1)).toNat * 256 + (s.read8 s.sp).toNat ∧
    s.pop16.2 = { s with sp := s.sp + 2 } ∧ ∀ p, dataOps (.pop p) s = [.rd s.sp, .rd (s.sp + 1)]) ∧
  ∀ (p : StackPair) (s : State), ∃ t, exec (.push p) s = .next t ∧
    ∀ w : State, w.sp = t.sp → (∀ addr, w.read8 addr = t.read8 addr) →
      ∃ u, exec (.pop p) w = .next u ∧ u.sp = s.sp ∧ stackHigh u p = stackHigh s p ∧
        stackLow u p = stackLow s p ∧ (p = .psw → u.flags = s.flags) ∧ KeepsMem [] t u

/-- 44_stack_pair.md R228 to R231: DAD adds a pair to HL, writes CY and no other flag (bytes: log 8; CY
written both ways is decision D13, log 19). -/
def Obligations.DadAddsToHl : Prop :=
  ∀ (p : Pair) (s : State), encode (.dad p) = [BitVec.ofNat 8 (0x09 + 16 * p.code.toNat)] ∧
    ∃ t, exec (.dad p) s = .next t ∧ t.hl.toNat = (s.hl.toNat + (s.pair p).toNat) % 65536 ∧
      t.flags = { s.flags with cy := decide (65536 ≤ s.hl.toNat + (s.pair p).toNat) } ∧
      t.sp = s.sp ∧ t.pc = s.pc ∧ Frame [.h, .l] [] s t

/-- 44_stack_pair.md R232 to R239: INX and DCX change a pair by 1 modulo 65536 and no flag (bytes: log 8). -/
def Obligations.PairIncrementAndDecrement : Prop :=
  ∀ (p : Pair) (s : State),
    encode (.inx p) = [BitVec.ofNat 8 (0x03 + 16 * p.code.toNat)] ∧
    encode (.dcx p) = [BitVec.ofNat 8 (0x0B + 16 * p.code.toNat)] ∧
    (∃ t, exec (.inx p) s = .next t ∧ (t.pair p).toNat = ((s.pair p).toNat + 1) % 65536 ∧
      (p ≠ .sp → t.sp = s.sp) ∧ t.pc = s.pc ∧ t.flags = s.flags ∧ Frame (pairRegs p) [] s t) ∧
    (∃ t, exec (.dcx p) s = .next t ∧ (t.pair p).toNat = ((s.pair p).toNat + 65535) % 65536 ∧
      (p ≠ .sp → t.sp = s.sp) ∧ t.pc = s.pc ∧ t.flags = s.flags ∧ Frame (pairRegs p) [] s t)

/-- 44_stack_pair.md R240, R241, R242: XCHG swaps HL and DE; XTHL swaps L with the byte at SP and H with the
byte at SP + 1 (decision D11, log 15), SP unchanged; SPHL copies HL to SP (bytes: log 8). -/
def Obligations.ExchangesAndSphl : Prop :=
  encode .xchg = [0xEB] ∧ encode .xthl = [0xE3] ∧ encode .sphl = [0xF9] ∧
  ∀ s : State,
    (∃ t, exec .xchg s = .next t ∧ t.h = s.d ∧ t.l = s.e ∧ t.d = s.h ∧ t.e = s.l ∧ KeepsControl s t ∧
      Frame [.h, .l, .d, .e] [] s t) ∧
    (∃ t, exec .xthl s = .next t ∧ t.l = s.read8 s.sp ∧ t.h = s.read8 (s.sp + 1) ∧ t.read8 s.sp = s.l ∧
      t.read8 (s.sp + 1) = s.h ∧ KeepsControl s t ∧ Frame [.h, .l] [s.sp, s.sp + 1] s t) ∧
    (∃ t, exec .sphl s = .next t ∧ t.sp.toNat = s.h.toNat * 256 + s.l.toNat ∧ { t with sp := s.sp } = s)

/-! ## 45: immediate and direct addressing -/

/-- 45_immediate_direct.md R260 to R265: LXI and MVI load their operand, low byte of d16 first (decision D1,
log 9), and change nothing else (bytes: log 8). -/
def Obligations.LoadImmediate : Prop :=
  (∀ (p : Pair) (d16 : Word) (s : State),
    encode (.lxi p d16) = [BitVec.ofNat 8 (0x01 + 16 * p.code.toNat), BitVec.ofNat 8 (d16.toNat % 256),
      BitVec.ofNat 8 (d16.toNat / 256)] ∧
    ∃ t, exec (.lxi p d16) s = .next t ∧ t.pair p = d16 ∧ (p ≠ .sp → t.sp = s.sp) ∧ t.pc = s.pc ∧
      t.flags = s.flags ∧ Frame (pairRegs p) [] s t) ∧
  ∀ (x : Operand8) (d8 : Byte) (s : State),
    encode (.mvi x d8) = [BitVec.ofNat 8 (0x06 + 8 * x.code.toNat), d8] ∧
    ∃ t, exec (.mvi x d8) s = .next t ∧ t.operand x = d8 ∧ KeepsControl s t ∧
      Frame (regsOf x) (storedBy s x) s t

/-- 45_immediate_direct.md R266: ADI, whose byte 0xC6 the source gives, adds its operand byte to A. -/
def Obligations.AddImmediate : Prop :=
  ∀ (d8 : Byte) (rest : List Byte) (s : State),
    decode (0xC6 :: d8 :: rest) = .ok (.adi d8) rest ∧ (Instr.adi d8).length = 2 ∧
    ∃ t, exec (.adi d8) s = .next t ∧ Added s t d8 false

/-- 45_immediate_direct.md R267, R268, R269: ACI, SUI and SBI (bytes: log 8; AC as a borrow: log 18). -/
def Obligations.ImmediateArithmetic : Prop :=
  ∀ (d8 : Byte) (s : State),
    encode (.aci d8) = [0xCE, d8] ∧ encode (.sui d8) = [0xD6, d8] ∧ encode (.sbi d8) = [0xDE, d8] ∧
    (∃ t, exec (.aci d8) s = .next t ∧ Added s t d8 s.flags.cy) ∧
    (∃ t, exec (.sui d8) s = .next t ∧ Subtracted s t d8 false) ∧
    (∃ t, exec (.sbi d8) s = .next t ∧ Subtracted s t d8 s.flags.cy)

/-- 45_immediate_direct.md R270, R271, R272: ANI, XRI and ORI clear CY and AC (bytes: log 8; AC of ANI is
decision D4, log 12). -/
def Obligations.ImmediateLogic : Prop :=
  ∀ (d8 : Byte) (s : State),
    encode (.ani d8) = [0xE6, d8] ∧ encode (.xri d8) = [0xEE, d8] ∧ encode (.ori d8) = [0xF6, d8] ∧
    (∃ t, exec (.ani d8) s = .next t ∧ LogicTo s t (s.a &&& d8)) ∧
    (∃ t, exec (.xri d8) s = .next t ∧ LogicTo s t (s.a ^^^ d8)) ∧
    (∃ t, exec (.ori d8) s = .next t ∧ LogicTo s t (s.a ||| d8))

/-- 45_immediate_direct.md R274, R275: STA and LDA (bytes and their order: logs 8 and 9). -/
def Obligations.DirectAccumulatorAccess : Prop :=
  ∀ (a16 : Word) (s : State),
    encode (.sta a16) = [0x32, BitVec.ofNat 8 (a16.toNat % 256), BitVec.ofNat 8 (a16.toNat / 256)] ∧
    encode (.lda a16) = [0x3A, BitVec.ofNat 8 (a16.toNat % 256), BitVec.ofNat 8 (a16.toNat / 256)] ∧
    (∃ t, exec (.sta a16) s = .next t ∧ t.read8 a16 = s.a ∧ KeepsControl s t ∧ Frame [] [a16] s t) ∧
    (∃ t, exec (.lda a16) s = .next t ∧ t.a = s.read8 a16 ∧ KeepsControl s t ∧ Frame [.a] [] s t)

/-- 45_immediate_direct.md R276, R277: SHLD and LHLD, L at the lower address, the higher one wrapping at the
top of the address space (logs 8, 9 and 14). -/
def Obligations.DirectPairAccess : Prop :=
  ∀ (a16 : Word) (s : State),
    encode (.shld a16) = [0x22, BitVec.ofNat 8 (a16.toNat % 256), BitVec.ofNat 8 (a16.toNat / 256)] ∧
    encode (.lhld a16) = [0x2A, BitVec.ofNat 8 (a16.toNat % 256), BitVec.ofNat 8 (a16.toNat / 256)] ∧
    (∃ t, exec (.shld a16) s = .next t ∧ t.read8 a16 = s.l ∧ t.read8 (a16 + 1) = s.h ∧ KeepsControl s t ∧
      Frame [] [a16, a16 + 1] s t) ∧
    (∃ t, exec (.lhld a16) s = .next t ∧ t.l = s.read8 a16 ∧ t.h = s.read8 (a16 + 1) ∧ KeepsControl s t ∧
      Frame [.h, .l] [] s t)

/-! ## 46: control transfer -/

/-- 46_control_transfer.md R300, R301 and 48_undefined_opcodes.md R373: JMP, PCHL and the undefined byte 0xCB
set PC and change nothing else (bytes and their order: logs 8 and 9; 0xCB: log 24). -/
def Obligations.UnconditionalJumps : Prop :=
  ∀ (a16 : Word) (s : State),
    encode (.jmp a16) = [0xC3, BitVec.ofNat 8 (a16.toNat % 256), BitVec.ofNat 8 (a16.toNat / 256)] ∧
    encode (.undefJmp a16) = [0xCB, BitVec.ofNat 8 (a16.toNat % 256), BitVec.ofNat 8 (a16.toNat / 256)] ∧
    encode .pchl = [0xE9] ∧
    exec (.jmp a16) s = .next { s with pc := a16 } ∧ exec (.undefJmp a16) s = .next { s with pc := a16 } ∧
    (∃ t, exec .pchl s = .next t ∧ t.pc.toNat = s.h.toNat * 256 + s.l.toNat ∧ { t with pc := s.pc } = s)

/-- 46_control_transfer.md R302 to R309: a conditional jump sets PC if its flag test holds, else leaves PC past
the three bytes; nothing else changes either way (opcodes and condition numbers: log 8; operand bytes: log 9). -/
def Obligations.ConditionalJumps : Prop :=
  ∀ (a16 : Word) (s : State), ∀ row ∈ [(Instr.jnz a16, (0xC2 : Byte), !s.flags.z), (.jz a16, 0xCA, s.flags.z),
      (.jnc a16, 0xD2, !s.flags.cy), (.jc a16, 0xDA, s.flags.cy), (.jpo a16, 0xE2, !s.flags.p),
      (.jpe a16, 0xEA, s.flags.p), (.jp a16, 0xF2, !s.flags.s), (.jm a16, 0xFA, s.flags.s)],
    encode row.1 = [row.2.1, BitVec.ofNat 8 (a16.toNat % 256), BitVec.ofNat 8 (a16.toNat / 256)] ∧
    exec row.1 s = .next { s with pc := if row.2.2 = true then a16 else s.pc }

/-- 46_control_transfer.md R310, R328: CALL and RST push the address of the next instruction and go to the
target, RST n to `8 * n`; nothing else changes, INTE included (bytes: logs 8 and 9). -/
def Obligations.CallAndRestart : Prop :=
  (∀ (a16 : Word) (s : State),
    encode (.call a16) = [0xCD, BitVec.ofNat 8 (a16.toNat % 256), BitVec.ofNat 8 (a16.toNat / 256)] ∧
    ∃ t, exec (.call a16) s = .next t ∧ CalledTo s t a16) ∧
  ∀ (n : BitVec 3) (s : State), encode (.rst n) = [BitVec.ofNat 8 (0xC7 + 8 * n.toNat)] ∧
    ∃ t, exec (.rst n) s = .next t ∧ CalledTo s t (BitVec.ofNat 16 (8 * n.toNat))

/-- 46_control_transfer.md R311 to R318: a conditional call is CALL if its flag test holds, else nothing is
pushed and nothing changes (opcodes and condition numbers: log 8; operand bytes: log 9). -/
def Obligations.ConditionalCalls : Prop :=
  ∀ (a16 : Word) (s : State), ∀ row ∈ [(Instr.cnz a16, (0xC4 : Byte), !s.flags.z), (.cz a16, 0xCC, s.flags.z),
      (.cnc a16, 0xD4, !s.flags.cy), (.cc a16, 0xDC, s.flags.cy), (.cpo a16, 0xE4, !s.flags.p),
      (.cpe a16, 0xEC, s.flags.p), (.cp a16, 0xF4, !s.flags.s), (.cm a16, 0xFC, s.flags.s)],
    encode row.1 = [row.2.1, BitVec.ofNat 8 (a16.toNat % 256), BitVec.ofNat 8 (a16.toNat / 256)] ∧
    ∃ t, exec row.1 s = .next t ∧ (row.2.2 = true → CalledTo s t a16) ∧ (row.2.2 = false → t = s)

/-- 46_control_transfer.md R319 to R327: RET pops PC; a conditional return does if its flag test holds, else
nothing changes (opcodes and condition numbers: log 8). -/
def Obligations.Returns : Prop :=
  ∀ s : State, ∀ row ∈ [(Instr.ret, (0xC9 : Byte), true), (.rnz, 0xC0, !s.flags.z), (.rz, 0xC8, s.flags.z),
      (.rnc, 0xD0, !s.flags.cy), (.rc, 0xD8, s.flags.cy), (.rpo, 0xE0, !s.flags.p), (.rpe, 0xE8, s.flags.p),
      (.rp, 0xF0, !s.flags.s), (.rm, 0xF8, s.flags.s)],
    encode row.1 = [row.2.1] ∧ ∃ t, exec row.1 s = .next t ∧ (row.2.2 = false → t = s) ∧
      (row.2.2 = true → t.pc.toNat = (s.read8 (s.sp + 1)).toNat * 256 + (s.read8 s.sp).toNat ∧
        t.sp = s.sp + 2 ∧ { t with pc := s.pc, sp := s.sp } = s)

/-- A CALL, then anything that ends with the same SP and memory, then RET comes back to the byte after the
CALL with SP restored (95_test_vectors.md, properties worth proving); the same for RST. -/
def Obligations.CallThenReturnComesBack : Prop :=
  ∀ (i : Instr) (s : State), (∃ a16, i = .call a16) ∨ (∃ n, i = .rst n) →
    ∃ t, exec i s = .next t ∧ ∀ w : State, w.sp = t.sp → (∀ addr, w.read8 addr = t.read8 addr) →
      ∃ u, exec .ret w = .next u ∧ u.pc = s.pc ∧ u.sp = s.sp

/-! ## 47: interrupt flip-flop, ports, halt -/

/-- 47_interrupt_io_halt.md R350, R351: EI and DI write INTE in this step and nothing else (bytes: log 8; no
delay of EI is decision D17, log 21). -/
def Obligations.InterruptFlipFlopInstructions : Prop :=
  encode .ei = [0xFB] ∧ encode .di = [0xF3] ∧
  ∀ s : State, exec .ei s = .next { s with inte := true } ∧ exec .di s = .next { s with inte := false }

/-- 47_interrupt_io_halt.md R352, R353: with the stub seam IN and OUT change nothing (PC is past both bytes);
wired, IN loads A with the host's byte, a free value (log 5), and OUT hands the host the pair (port, A), which
the model records (log 6); A as the register is the spec's general knowledge (log 7; bytes: log 8). -/
def Obligations.PortInstructions : Prop :=
  ∀ (port : Byte) (s : State), encode (.inp port) = [0xDB, port] ∧ encode (.outp port) = [0xD3, port] ∧
    (∃ t, exec (.inp port) s = .next t ∧ (s.seam = .stub → t = s) ∧
      (s.seam = .wired → t.a = Config.portInByte s.portReads port ∧ t.portReads = s.portReads + 1) ∧
      { t with a := s.a, portReads := s.portReads } = s) ∧
    (∃ t, exec (.outp port) s = .next t ∧ (s.seam = .stub → t = s) ∧
      (s.seam = .wired → t.portWrites = (port, s.a) :: s.portWrites) ∧
      { t with portWrites := s.portWrites } = s)

/-- 47_interrupt_io_halt.md R354 and 70_reset_and_hazards.md R434: HLT moves PC back onto its opcode byte
(decision D5, log 13); in a parked state every number of steps changes nothing, at any PC. -/
def Obligations.HaltParks : Prop :=
  encode .hlt = [0x76] ∧
  (∀ s : State, ∃ t, exec .hlt s = .next t ∧ t.pc.toNat = (s.pc.toNat + 65535) % 65536 ∧
    { t with pc := s.pc } = s) ∧
  ∀ (s : State) (n : Nat), s.Parked → Host.Core.run Sys2Proof.core n s = .next s

/-! ## Rules of the whole machine -/

/-- 10_state.md R31: EI writes 1 to INTE, DI writes 0, construction writes 0, nothing else writes it, and no
instruction reads it: two states that differ in INTE alone run alike. At a wired IN the two runs read the same
byte because the free value is one function of the count of reads and the port, equal in both (log 5). -/
def Obligations.OnlyEiAndDiTouchInte : Prop :=
  (∀ (resetPc : Word) (mem : Memory) (seam : PortSeam), (State.construct resetPc mem seam).inte = false) ∧
  (∀ (i : Instr) (s t : State), exec i s = .next t →
    t.inte = if i = .ei then true else if i = .di then false else s.inte) ∧
  (∀ (i : Instr) (s t : State) (b : Bool), exec i s = .next t →
    ∃ u, exec i { s with inte := b } = .next u ∧ { u with inte := t.inte } = t) ∧
  ∀ (s t : State) (b : Bool), step s = .next t →
    ∃ u, step { s with inte := b } = .next u ∧ { u with inte := t.inte } = t

/-- 10_state.md R25: the table of which instructions write which flag. That the logical operations clear AC is
decision D4 (log 12), that DAD and DAA write CY as they do D13 and D2 (logs 19 and 11). -/
def Obligations.FlagTable : Prop :=
  ∀ (i : Instr) (s t : State), exec i s = .next t →
    (flagEffect i = .none → t.flags = s.flags) ∧
    (flagEffect i = .carryOnly → { t.flags with cy := s.flags.cy } = s.flags) ∧
    (flagEffect i = .allButCarry → t.flags.cy = s.flags.cy) ∧
    (flagEffect i = .logic → t.flags.cy = false ∧ t.flags.ac = false) ∧
    (i = .stc → t.flags.cy = true) ∧ (i = .cmc → t.flags.cy = !s.flags.cy)

/-- 10_state.md R23, R24: PC ends past the instruction unless the instruction transfers control or is HLT, and
SP is written only by the instructions of R23 (that three of them take SP is the spec's G5, log 8). -/
def Obligations.OnlyTheListedInstructionsMovePcAndSp : Prop :=
  ∀ (s t : State) (i : Instr) (rest : List Byte),
    decode [s.read8 s.pc, s.read8 (s.pc + 1), s.read8 (s.pc + 2)] = .ok i rest → step s = .next t →
      (movesPc i = false → t.pc.toNat = (s.pc.toNat + i.length) % 65536) ∧ (movesSp i = false → t.sp = s.sp)

/-- 20_memory.md R54, 47_interrupt_io_halt.md R352, R353: no step changes the port seam, and no step from a
stub seam, nor any instruction but IN and OUT, touches the model's record of the ports (logs 4, 5 and 6). -/
def Obligations.OnlyInAndOutTouchThePorts : Prop :=
  (∀ s t : State, step s = .next t → t.seam = s.seam ∧ (s.seam = .stub → KeepsPorts s t)) ∧
  ∀ (i : Instr) (s t : State), exec i s = .next t →
    ((∀ port, i ≠ .inp port) → t.portReads = s.portReads) ∧
    ((∀ port, i ≠ .outp port) → t.portWrites = s.portWrites)

/-- 20_memory.md R52, R59, R63: the memory after a step is the memory before it with the step's bus writes
done in order. The order of the bus operations is decisions D8 and D9 (log 16). -/
def Obligations.StepWritesAreItsBusWrites : Prop :=
  (∀ (i : Instr) (s t : State), exec i s = .next t → t.mem = s.mem.afterOps (dataOps i s)) ∧
  ∀ s t : State, step s = .next t → t.mem = s.mem.afterOps (stepOps s) ∧
    KeepsMem (writeAddrs (stepOps s)) s t

/-- 70_reset_and_hazards.md R436 (b): a step reads at most three consecutive bytes from PC as instruction
bytes, then at most two bytes as data, and writes at most two (log 16). -/
def Obligations.StepBusOperationsAreBounded : Prop :=
  ∀ s : State, ∃ (n : Nat) (data : List BusOp), 1 ≤ n ∧ n ≤ 3 ∧
    stepOps s = ((List.range n).map fun k => BusOp.rd (s.pc + BitVec.ofNat 16 k)) ++ data ∧
    (readAddrs data).length ≤ 2 ∧ (writeAddrs data).length ≤ 2

/-- 20_memory.md R59, 70_reset_and_hazards.md R436: a step learns nothing of memory but the bytes it reads on
the bus. Two states that differ only in memory, and agree on the bytes the first one's step reads, make the
same bus operations and agree after the step on everything but memory (log 16). At a wired IN the two runs read
the same byte because the free value is one function of the count of reads and the port, equal in both (log 5). -/
def Obligations.StepDependsOnItsReadsAlone : Prop :=
  ∀ (s t : State) (mem : Memory), step s = .next t →
    (∀ addr ∈ readAddrs (stepOps s), { s with mem := mem }.read8 addr = s.read8 addr) →
      ∃ u, step { s with mem := mem } = .next u ∧ { u with mem := t.mem } = t ∧
        stepOps { s with mem := mem } = stepOps s ∧ u.mem = mem.afterOps (stepOps s)

/-- 95_test_vectors.md, properties worth proving: CMA, CMC, XCHG and XTHL twice are the identity (XTHL on
states with canonical memory), RLC then RRC restores A, RAL then RAR restores A and CY (logs 10 and 15). -/
def Obligations.SelfInverseInstructions : Prop :=
  ∀ s : State,
    (∀ row ∈ [(Instr.cma, Instr.cma), (.cmc, .cmc), (.xchg, .xchg), (.ral, .rar), (.rar, .ral)],
      ∃ t, exec row.1 s = .next t ∧ exec row.2 t = .next s) ∧
    (s.Inv → ∃ t, exec .xthl s = .next t ∧ exec .xthl t = .next s) ∧
    (∃ t u, exec .rlc s = .next t ∧ exec .rrc t = .next u ∧ u.a = s.a) ∧
    (∃ t u, exec .rrc s = .next t ∧ exec .rlc t = .next u ∧ u.a = s.a)
end

