-- ==== Sys2Proof/Laws/Decode.lean ====
section
/-! SUPPORT. The small lemmas of words, operand codes and the decoder. -/

namespace Sys2Proof

@[simp] theorem joinBytes_high_low (w : Word) : joinBytes (highByte w) (lowByte w) = w := by
  apply BitVec.eq_of_getLsbD_eq
  intro k hk
  simp only [joinBytes, highByte, lowByte, BitVec.getLsbD_append, BitVec.getLsbD_extractLsb']
  split
  · simp_all
  · rename_i h
    have : 8 + (k - 8) = k := by omega
    simp [this]
    omega

@[simp] theorem highByte_joinBytes (hi lo : Byte) : highByte (joinBytes hi lo) = hi := by
  apply BitVec.eq_of_getLsbD_eq
  intro k hk
  simp only [joinBytes, highByte, BitVec.getLsbD_extractLsb', BitVec.getLsbD_append]
  simp [hk]

@[simp] theorem lowByte_joinBytes (hi lo : Byte) : lowByte (joinBytes hi lo) = lo := by
  apply BitVec.eq_of_getLsbD_eq
  intro k hk
  simp only [joinBytes, lowByte, BitVec.getLsbD_extractLsb', BitVec.getLsbD_append]
  simp [hk]

/-- `{hi, lo} = hi * 256 + lo` (R11). -/
theorem toNat_joinBytes (hi lo : Byte) : (joinBytes hi lo).toNat = hi.toNat * 256 + lo.toNat := by
  have h : (joinBytes hi lo).toNat = hi.toNat <<< 8 ||| lo.toNat := BitVec.toNat_append hi lo
  rw [h, ← Nat.shiftLeft_add_eq_or_of_lt lo.isLt, Nat.shiftLeft_eq]

theorem toNat_highByte (w : Word) : (highByte w).toNat = w.toNat / 256 := by
  have := w.isLt
  simp [highByte, BitVec.extractLsb'_toNat, Nat.shiftRight_eq_div_pow]
  omega

theorem toNat_lowByte (w : Word) : (lowByte w).toNat = w.toNat % 256 := by
  simp [lowByte, BitVec.extractLsb'_toNat]

theorem joinBytes_inj {h1 l1 h2 l2 : Byte} (h : joinBytes h1 l1 = joinBytes h2 l2) : h1 = h2 ∧ l1 = l2 :=
  ⟨by simpa using congrArg highByte h, by simpa using congrArg lowByte h⟩

@[simp] theorem Operand8.ofCode_code (x : Operand8) : Operand8.ofCode x.code = x := by
  cases x with
  | reg r => cases r <;> rfl
  | m => rfl

@[simp] theorem Pair.ofCode_code (p : Pair) : Pair.ofCode p.code = p := by cases p <;> rfl

@[simp] theorem StackPair.ofCode_code (p : StackPair) : StackPair.ofCode p.code = p := by cases p <;> rfl

theorem Operand8.code_ofCode : ∀ k : BitVec 3, (Operand8.ofCode k).code = k := by decide

theorem Pair.code_ofCode : ∀ k : BitVec 2, (Pair.ofCode k).code = k := by decide

/-- The length of an opcode byte is 1, 2 or 3 (R81). -/
theorem opcodeLength_cases (op : Byte) : opcodeLength op = 1 ∨ opcodeLength op = 2 ∨ opcodeLength op = 3 := by
  unfold opcodeLength
  split
  · exact .inr (.inr rfl)
  · split
    · exact .inr (.inl rfl)
    · exact .inl rfl

end Sys2Proof
end

