-- ==== Sys2Proof/Laws/State.lean ====
section
/-! SUPPORT. What each named update of the state does to each field, so that no proof unfolds a record
update. -/

namespace Sys2Proof.Machine

@[simp] theorem State.setReg_a (s : State) (r : Reg8) (v : Byte) : (s.setReg r v).a = if r = .a then v else s.a := by cases r <;> rfl
@[simp] theorem State.setReg_b (s : State) (r : Reg8) (v : Byte) : (s.setReg r v).b = if r = .b then v else s.b := by cases r <;> rfl
@[simp] theorem State.setReg_c (s : State) (r : Reg8) (v : Byte) : (s.setReg r v).c = if r = .c then v else s.c := by cases r <;> rfl
@[simp] theorem State.setReg_d (s : State) (r : Reg8) (v : Byte) : (s.setReg r v).d = if r = .d then v else s.d := by cases r <;> rfl
@[simp] theorem State.setReg_e (s : State) (r : Reg8) (v : Byte) : (s.setReg r v).e = if r = .e then v else s.e := by cases r <;> rfl
@[simp] theorem State.setReg_h (s : State) (r : Reg8) (v : Byte) : (s.setReg r v).h = if r = .h then v else s.h := by cases r <;> rfl
@[simp] theorem State.setReg_l (s : State) (r : Reg8) (v : Byte) : (s.setReg r v).l = if r = .l then v else s.l := by cases r <;> rfl
@[simp] theorem State.setReg_sp (s : State) (r : Reg8) (v : Byte) : (s.setReg r v).sp = s.sp := by cases r <;> rfl
@[simp] theorem State.setReg_pc (s : State) (r : Reg8) (v : Byte) : (s.setReg r v).pc = s.pc := by cases r <;> rfl
@[simp] theorem State.setReg_flags (s : State) (r : Reg8) (v : Byte) : (s.setReg r v).flags = s.flags := by cases r <;> rfl
@[simp] theorem State.setReg_inte (s : State) (r : Reg8) (v : Byte) : (s.setReg r v).inte = s.inte := by cases r <;> rfl
@[simp] theorem State.setReg_mem (s : State) (r : Reg8) (v : Byte) : (s.setReg r v).mem = s.mem := by cases r <;> rfl
@[simp] theorem State.setReg_seam (s : State) (r : Reg8) (v : Byte) : (s.setReg r v).seam = s.seam := by cases r <;> rfl
@[simp] theorem State.setReg_portReads (s : State) (r : Reg8) (v : Byte) : (s.setReg r v).portReads = s.portReads := by cases r <;> rfl
@[simp] theorem State.setReg_portWrites (s : State) (r : Reg8) (v : Byte) : (s.setReg r v).portWrites = s.portWrites := by cases r <;> rfl

@[simp] theorem State.setSp_a (s : State) (v : Word) : (s.setSp v).a = s.a := rfl
@[simp] theorem State.setSp_b (s : State) (v : Word) : (s.setSp v).b = s.b := rfl
@[simp] theorem State.setSp_c (s : State) (v : Word) : (s.setSp v).c = s.c := rfl
@[simp] theorem State.setSp_d (s : State) (v : Word) : (s.setSp v).d = s.d := rfl
@[simp] theorem State.setSp_e (s : State) (v : Word) : (s.setSp v).e = s.e := rfl
@[simp] theorem State.setSp_h (s : State) (v : Word) : (s.setSp v).h = s.h := rfl
@[simp] theorem State.setSp_l (s : State) (v : Word) : (s.setSp v).l = s.l := rfl
@[simp] theorem State.setSp_sp (s : State) (v : Word) : (s.setSp v).sp = v := rfl
@[simp] theorem State.setSp_pc (s : State) (v : Word) : (s.setSp v).pc = s.pc := rfl
@[simp] theorem State.setSp_flags (s : State) (v : Word) : (s.setSp v).flags = s.flags := rfl
@[simp] theorem State.setSp_inte (s : State) (v : Word) : (s.setSp v).inte = s.inte := rfl
@[simp] theorem State.setSp_mem (s : State) (v : Word) : (s.setSp v).mem = s.mem := rfl
@[simp] theorem State.setSp_seam (s : State) (v : Word) : (s.setSp v).seam = s.seam := rfl
@[simp] theorem State.setSp_portReads (s : State) (v : Word) : (s.setSp v).portReads = s.portReads := rfl
@[simp] theorem State.setSp_portWrites (s : State) (v : Word) : (s.setSp v).portWrites = s.portWrites := rfl

@[simp] theorem State.setPc_a (s : State) (v : Word) : (s.setPc v).a = s.a := rfl
@[simp] theorem State.setPc_b (s : State) (v : Word) : (s.setPc v).b = s.b := rfl
@[simp] theorem State.setPc_c (s : State) (v : Word) : (s.setPc v).c = s.c := rfl
@[simp] theorem State.setPc_d (s : State) (v : Word) : (s.setPc v).d = s.d := rfl
@[simp] theorem State.setPc_e (s : State) (v : Word) : (s.setPc v).e = s.e := rfl
@[simp] theorem State.setPc_h (s : State) (v : Word) : (s.setPc v).h = s.h := rfl
@[simp] theorem State.setPc_l (s : State) (v : Word) : (s.setPc v).l = s.l := rfl
@[simp] theorem State.setPc_sp (s : State) (v : Word) : (s.setPc v).sp = s.sp := rfl
@[simp] theorem State.setPc_pc (s : State) (v : Word) : (s.setPc v).pc = v := rfl
@[simp] theorem State.setPc_flags (s : State) (v : Word) : (s.setPc v).flags = s.flags := rfl
@[simp] theorem State.setPc_inte (s : State) (v : Word) : (s.setPc v).inte = s.inte := rfl
@[simp] theorem State.setPc_mem (s : State) (v : Word) : (s.setPc v).mem = s.mem := rfl
@[simp] theorem State.setPc_seam (s : State) (v : Word) : (s.setPc v).seam = s.seam := rfl
@[simp] theorem State.setPc_portReads (s : State) (v : Word) : (s.setPc v).portReads = s.portReads := rfl
@[simp] theorem State.setPc_portWrites (s : State) (v : Word) : (s.setPc v).portWrites = s.portWrites := rfl

@[simp] theorem State.setFlags_a (s : State) (f : Flags) : (s.setFlags f).a = s.a := rfl
@[simp] theorem State.setFlags_b (s : State) (f : Flags) : (s.setFlags f).b = s.b := rfl
@[simp] theorem State.setFlags_c (s : State) (f : Flags) : (s.setFlags f).c = s.c := rfl
@[simp] theorem State.setFlags_d (s : State) (f : Flags) : (s.setFlags f).d = s.d := rfl
@[simp] theorem State.setFlags_e (s : State) (f : Flags) : (s.setFlags f).e = s.e := rfl
@[simp] theorem State.setFlags_h (s : State) (f : Flags) : (s.setFlags f).h = s.h := rfl
@[simp] theorem State.setFlags_l (s : State) (f : Flags) : (s.setFlags f).l = s.l := rfl
@[simp] theorem State.setFlags_sp (s : State) (f : Flags) : (s.setFlags f).sp = s.sp := rfl
@[simp] theorem State.setFlags_pc (s : State) (f : Flags) : (s.setFlags f).pc = s.pc := rfl
@[simp] theorem State.setFlags_flags (s : State) (f : Flags) : (s.setFlags f).flags = f := rfl
@[simp] theorem State.setFlags_inte (s : State) (f : Flags) : (s.setFlags f).inte = s.inte := rfl
@[simp] theorem State.setFlags_mem (s : State) (f : Flags) : (s.setFlags f).mem = s.mem := rfl
@[simp] theorem State.setFlags_seam (s : State) (f : Flags) : (s.setFlags f).seam = s.seam := rfl
@[simp] theorem State.setFlags_portReads (s : State) (f : Flags) : (s.setFlags f).portReads = s.portReads := rfl
@[simp] theorem State.setFlags_portWrites (s : State) (f : Flags) : (s.setFlags f).portWrites = s.portWrites := rfl

@[simp] theorem State.setCy_a (s : State) (v : Bool) : (s.setCy v).a = s.a := rfl
@[simp] theorem State.setCy_b (s : State) (v : Bool) : (s.setCy v).b = s.b := rfl
@[simp] theorem State.setCy_c (s : State) (v : Bool) : (s.setCy v).c = s.c := rfl
@[simp] theorem State.setCy_d (s : State) (v : Bool) : (s.setCy v).d = s.d := rfl
@[simp] theorem State.setCy_e (s : State) (v : Bool) : (s.setCy v).e = s.e := rfl
@[simp] theorem State.setCy_h (s : State) (v : Bool) : (s.setCy v).h = s.h := rfl
@[simp] theorem State.setCy_l (s : State) (v : Bool) : (s.setCy v).l = s.l := rfl
@[simp] theorem State.setCy_sp (s : State) (v : Bool) : (s.setCy v).sp = s.sp := rfl
@[simp] theorem State.setCy_pc (s : State) (v : Bool) : (s.setCy v).pc = s.pc := rfl
@[simp] theorem State.setCy_flags (s : State) (v : Bool) : (s.setCy v).flags = { s.flags with cy := v } := rfl
@[simp] theorem State.setCy_inte (s : State) (v : Bool) : (s.setCy v).inte = s.inte := rfl
@[simp] theorem State.setCy_mem (s : State) (v : Bool) : (s.setCy v).mem = s.mem := rfl
@[simp] theorem State.setCy_seam (s : State) (v : Bool) : (s.setCy v).seam = s.seam := rfl
@[simp] theorem State.setCy_portReads (s : State) (v : Bool) : (s.setCy v).portReads = s.portReads := rfl
@[simp] theorem State.setCy_portWrites (s : State) (v : Bool) : (s.setCy v).portWrites = s.portWrites := rfl

@[simp] theorem State.setInte_a (s : State) (v : Bool) : (s.setInte v).a = s.a := rfl
@[simp] theorem State.setInte_b (s : State) (v : Bool) : (s.setInte v).b = s.b := rfl
@[simp] theorem State.setInte_c (s : State) (v : Bool) : (s.setInte v).c = s.c := rfl
@[simp] theorem State.setInte_d (s : State) (v : Bool) : (s.setInte v).d = s.d := rfl
@[simp] theorem State.setInte_e (s : State) (v : Bool) : (s.setInte v).e = s.e := rfl
@[simp] theorem State.setInte_h (s : State) (v : Bool) : (s.setInte v).h = s.h := rfl
@[simp] theorem State.setInte_l (s : State) (v : Bool) : (s.setInte v).l = s.l := rfl
@[simp] theorem State.setInte_sp (s : State) (v : Bool) : (s.setInte v).sp = s.sp := rfl
@[simp] theorem State.setInte_pc (s : State) (v : Bool) : (s.setInte v).pc = s.pc := rfl
@[simp] theorem State.setInte_flags (s : State) (v : Bool) : (s.setInte v).flags = s.flags := rfl
@[simp] theorem State.setInte_inte (s : State) (v : Bool) : (s.setInte v).inte = v := rfl
@[simp] theorem State.setInte_mem (s : State) (v : Bool) : (s.setInte v).mem = s.mem := rfl
@[simp] theorem State.setInte_seam (s : State) (v : Bool) : (s.setInte v).seam = s.seam := rfl
@[simp] theorem State.setInte_portReads (s : State) (v : Bool) : (s.setInte v).portReads = s.portReads := rfl
@[simp] theorem State.setInte_portWrites (s : State) (v : Bool) : (s.setInte v).portWrites = s.portWrites := rfl

@[simp] theorem State.write8_a (s : State) (addr : Word) (v : Byte) : (s.write8 addr v).a = s.a := rfl
@[simp] theorem State.write8_b (s : State) (addr : Word) (v : Byte) : (s.write8 addr v).b = s.b := rfl
@[simp] theorem State.write8_c (s : State) (addr : Word) (v : Byte) : (s.write8 addr v).c = s.c := rfl
@[simp] theorem State.write8_d (s : State) (addr : Word) (v : Byte) : (s.write8 addr v).d = s.d := rfl
@[simp] theorem State.write8_e (s : State) (addr : Word) (v : Byte) : (s.write8 addr v).e = s.e := rfl
@[simp] theorem State.write8_h (s : State) (addr : Word) (v : Byte) : (s.write8 addr v).h = s.h := rfl
@[simp] theorem State.write8_l (s : State) (addr : Word) (v : Byte) : (s.write8 addr v).l = s.l := rfl
@[simp] theorem State.write8_sp (s : State) (addr : Word) (v : Byte) : (s.write8 addr v).sp = s.sp := rfl
@[simp] theorem State.write8_pc (s : State) (addr : Word) (v : Byte) : (s.write8 addr v).pc = s.pc := rfl
@[simp] theorem State.write8_flags (s : State) (addr : Word) (v : Byte) : (s.write8 addr v).flags = s.flags := rfl
@[simp] theorem State.write8_inte (s : State) (addr : Word) (v : Byte) : (s.write8 addr v).inte = s.inte := rfl
@[simp] theorem State.write8_mem (s : State) (addr : Word) (v : Byte) : (s.write8 addr v).mem = s.mem.writeAt addr.toNat v := rfl
@[simp] theorem State.write8_seam (s : State) (addr : Word) (v : Byte) : (s.write8 addr v).seam = s.seam := rfl
@[simp] theorem State.write8_portReads (s : State) (addr : Word) (v : Byte) : (s.write8 addr v).portReads = s.portReads := rfl
@[simp] theorem State.write8_portWrites (s : State) (addr : Word) (v : Byte) : (s.write8 addr v).portWrites = s.portWrites := rfl

/-! The registers by number, the pair views and the bytes of memory under each update. -/

@[simp] theorem State.reg_a (s : State) : s.reg .a = s.a := rfl
@[simp] theorem State.reg_b (s : State) : s.reg .b = s.b := rfl
@[simp] theorem State.reg_c (s : State) : s.reg .c = s.c := rfl
@[simp] theorem State.reg_d (s : State) : s.reg .d = s.d := rfl
@[simp] theorem State.reg_e (s : State) : s.reg .e = s.e := rfl
@[simp] theorem State.reg_h (s : State) : s.reg .h = s.h := rfl
@[simp] theorem State.reg_l (s : State) : s.reg .l = s.l := rfl

/-- The read-after-write law of the register file. -/
theorem State.reg_setReg (s : State) (r : Reg8) (v : Byte) (q : Reg8) :
    (s.setReg r v).reg q = if r = q then v else s.reg q := by
  cases r <;> cases q <;> rfl

@[simp] theorem State.reg_setReg_self (s : State) (r : Reg8) (v : Byte) : (s.setReg r v).reg r = v := by
  cases r <;> rfl

theorem State.reg_setReg_ne (s : State) (r : Reg8) (v : Byte) (q : Reg8) (h : q ≠ r) :
    (s.setReg r v).reg q = s.reg q := by
  rw [State.reg_setReg, if_neg (Ne.symm h)]

@[simp] theorem State.read8_setReg (s : State) (r : Reg8) (v : Byte) (x : Word) :
    (s.setReg r v).read8 x = s.read8 x := by
  cases r <;> rfl

theorem State.bc_setReg (s : State) (r : Reg8) (v : Byte) :
    (s.setReg r v).bc = joinBytes (if r = .b then v else s.b) (if r = .c then v else s.c) := by
  cases r <;> rfl

theorem State.de_setReg (s : State) (r : Reg8) (v : Byte) :
    (s.setReg r v).de = joinBytes (if r = .d then v else s.d) (if r = .e then v else s.e) := by
  cases r <;> rfl

theorem State.hl_setReg (s : State) (r : Reg8) (v : Byte) :
    (s.setReg r v).hl = joinBytes (if r = .h then v else s.h) (if r = .l then v else s.l) := by
  cases r <;> rfl

@[simp] theorem State.reg_setSp (s : State) (v : Word) (q : Reg8) : (s.setSp v).reg q = s.reg q := by cases q <;> rfl
@[simp] theorem State.read8_setSp (s : State) (v : Word) (x : Word) : (s.setSp v).read8 x = s.read8 x := rfl
@[simp] theorem State.bc_setSp (s : State) (v : Word) : (s.setSp v).bc = s.bc := rfl
@[simp] theorem State.de_setSp (s : State) (v : Word) : (s.setSp v).de = s.de := rfl
@[simp] theorem State.hl_setSp (s : State) (v : Word) : (s.setSp v).hl = s.hl := rfl
@[simp] theorem State.reg_setPc (s : State) (v : Word) (q : Reg8) : (s.setPc v).reg q = s.reg q := by cases q <;> rfl
@[simp] theorem State.read8_setPc (s : State) (v : Word) (x : Word) : (s.setPc v).read8 x = s.read8 x := rfl
@[simp] theorem State.bc_setPc (s : State) (v : Word) : (s.setPc v).bc = s.bc := rfl
@[simp] theorem State.de_setPc (s : State) (v : Word) : (s.setPc v).de = s.de := rfl
@[simp] theorem State.hl_setPc (s : State) (v : Word) : (s.setPc v).hl = s.hl := rfl
@[simp] theorem State.reg_setFlags (s : State) (f : Flags) (q : Reg8) : (s.setFlags f).reg q = s.reg q := by cases q <;> rfl
@[simp] theorem State.read8_setFlags (s : State) (f : Flags) (x : Word) : (s.setFlags f).read8 x = s.read8 x := rfl
@[simp] theorem State.bc_setFlags (s : State) (f : Flags) : (s.setFlags f).bc = s.bc := rfl
@[simp] theorem State.de_setFlags (s : State) (f : Flags) : (s.setFlags f).de = s.de := rfl
@[simp] theorem State.hl_setFlags (s : State) (f : Flags) : (s.setFlags f).hl = s.hl := rfl
@[simp] theorem State.reg_setCy (s : State) (v : Bool) (q : Reg8) : (s.setCy v).reg q = s.reg q := by cases q <;> rfl
@[simp] theorem State.read8_setCy (s : State) (v : Bool) (x : Word) : (s.setCy v).read8 x = s.read8 x := rfl
@[simp] theorem State.bc_setCy (s : State) (v : Bool) : (s.setCy v).bc = s.bc := rfl
@[simp] theorem State.de_setCy (s : State) (v : Bool) : (s.setCy v).de = s.de := rfl
@[simp] theorem State.hl_setCy (s : State) (v : Bool) : (s.setCy v).hl = s.hl := rfl
@[simp] theorem State.reg_setInte (s : State) (v : Bool) (q : Reg8) : (s.setInte v).reg q = s.reg q := by cases q <;> rfl
@[simp] theorem State.read8_setInte (s : State) (v : Bool) (x : Word) : (s.setInte v).read8 x = s.read8 x := rfl
@[simp] theorem State.bc_setInte (s : State) (v : Bool) : (s.setInte v).bc = s.bc := rfl
@[simp] theorem State.de_setInte (s : State) (v : Bool) : (s.setInte v).de = s.de := rfl
@[simp] theorem State.hl_setInte (s : State) (v : Bool) : (s.setInte v).hl = s.hl := rfl
@[simp] theorem State.reg_write8 (s : State) (addr : Word) (v : Byte) (q : Reg8) : (s.write8 addr v).reg q = s.reg q := by cases q <;> rfl
@[simp] theorem State.bc_write8 (s : State) (addr : Word) (v : Byte) : (s.write8 addr v).bc = s.bc := rfl
@[simp] theorem State.de_write8 (s : State) (addr : Word) (v : Byte) : (s.write8 addr v).de = s.de := rfl
@[simp] theorem State.hl_write8 (s : State) (addr : Word) (v : Byte) : (s.write8 addr v).hl = s.hl := rfl

end Sys2Proof.Machine
end

