-- ==== Sys2Proof/Laws/Memory.lean ====
section
/-! SUPPORT. The laws of memory: read after write, and that every operation keeps the canonical form. -/

namespace Sys2Proof.Machine

theorem Memory.readAt_eraseAt (m : Memory) (n x : Nat) :
    (m.eraseAt n).readAt x = if x = n then Config.unlistedByte else m.readAt x := by
  induction m with
  | nil => simp [Memory.eraseAt, Memory.readAt]
  | cons c rest ih =>
    obtain ⟨k, w⟩ := c
    by_cases hk : k = n
    · subst hk
      by_cases hx : x = k
      · subst hx
        simpa [Memory.eraseAt] using ih
      · simp [Memory.eraseAt, Memory.readAt, ih, hx, Ne.symm hx]
    · by_cases hx : k = x
      · subst hx
        simp [Memory.eraseAt, Memory.readAt, hk]
      · simp [Memory.eraseAt, Memory.readAt, hk, hx, ih]

theorem Memory.readAt_insertAt (m : Memory) (n x : Nat) (v : Byte) (h : m.eraseAt n = m) :
    (m.insertAt n v).readAt x = if x = n then v else m.readAt x := by
  induction m with
  | nil => simp [Memory.insertAt, Memory.readAt, eq_comm]
  | cons c rest ih =>
    obtain ⟨k, w⟩ := c
    have hk : k ≠ n := by
      intro hk
      subst hk
      have := congrArg (fun m => Memory.readAt m k) h
      have hl := congrArg List.length h
      have : (Memory.eraseAt rest k).length ≤ rest.length := by
        clear ih h this hl
        induction rest with
        | nil => simp [Memory.eraseAt]
        | cons c r ih => unfold Memory.eraseAt; split <;> simp <;> omega
      simp [Memory.eraseAt] at hl
      omega
    have hr : Memory.eraseAt rest n = rest := by simpa [Memory.eraseAt, hk] using h
    by_cases hn : n < k
    · simp [Memory.insertAt, Memory.readAt, hn, eq_comm]
    · by_cases hx : k = x
      · subst hx
        simp [Memory.insertAt, Memory.readAt, hn, hk]
      · simp [Memory.insertAt, Memory.readAt, hn, hx, ih hr]

theorem Memory.eraseAt_idem (m : Memory) (n : Nat) : (m.eraseAt n).eraseAt n = m.eraseAt n := by
  induction m with
  | nil => rfl
  | cons c rest ih =>
    obtain ⟨k, w⟩ := c
    by_cases hk : k = n <;> simp [Memory.eraseAt, hk, ih]

/-- Read after write (R51, R52), for any list of cells. -/
theorem Memory.readAt_writeAt (m : Memory) (n x : Nat) (v : Byte) :
    (m.writeAt n v).readAt x = if x = n then v else m.readAt x := by
  unfold Memory.writeAt
  split
  · rename_i hv
    rw [Memory.readAt_eraseAt, hv]
  · rw [Memory.readAt_insertAt _ _ _ _ (Memory.eraseAt_idem m n), Memory.readAt_eraseAt]
    split <;> rfl

theorem Memory.wfFrom_cons (lo k : Nat) (v : Byte) (rest : Memory) :
    Memory.wfFrom lo ((k, v) :: rest) = true ↔
      lo ≤ k ∧ k < 65536 ∧ v ≠ Config.unlistedByte ∧ Memory.wfFrom (k + 1) rest = true := by
  simp [Memory.wfFrom, and_assoc]

theorem Memory.wfFrom_mono (m : Memory) (lo hi : Nat) (h : lo ≤ hi) (hm : Memory.wfFrom hi m = true) :
    Memory.wfFrom lo m = true := by
  cases m with
  | nil => rfl
  | cons c rest =>
    rw [Memory.wfFrom_cons] at hm ⊢
    exact ⟨by omega, hm.2⟩

theorem Memory.wfFrom_eraseAt (m : Memory) (lo n : Nat) (hm : Memory.wfFrom lo m = true) :
    Memory.wfFrom lo (m.eraseAt n) = true := by
  induction m generalizing lo with
  | nil => rfl
  | cons c rest ih =>
    obtain ⟨k, w⟩ := c
    rw [Memory.wfFrom_cons] at hm
    unfold Memory.eraseAt
    split
    · exact Memory.wfFrom_mono _ lo (k + 1) (by omega) (ih _ hm.2.2.2)
    · rw [Memory.wfFrom_cons]
      exact ⟨hm.1, hm.2.1, hm.2.2.1, ih _ hm.2.2.2⟩

theorem Memory.wfFrom_insertAt (m : Memory) (lo n : Nat) (v : Byte) (hm : Memory.wfFrom lo m = true)
    (hlo : lo ≤ n) (hn : n < 65536) (hv : v ≠ Config.unlistedByte) (he : m.eraseAt n = m) :
    Memory.wfFrom lo (m.insertAt n v) = true := by
  induction m generalizing lo with
  | nil => simp [Memory.insertAt, hlo, hn, hv, Memory.wfFrom]
  | cons c rest ih =>
    obtain ⟨k, w⟩ := c
    rw [Memory.wfFrom_cons] at hm
    have hk : k ≠ n := by
      intro hk
      have h1 := Memory.readAt_eraseAt ((k, w) :: rest) n n
      rw [he, if_pos rfl] at h1
      exact hm.2.2.1 (by simpa [Memory.readAt, hk] using h1)
    have hr : Memory.eraseAt rest n = rest := by simpa [Memory.eraseAt, hk] using he
    unfold Memory.insertAt
    split
    · rw [Memory.wfFrom_cons, Memory.wfFrom_cons]
      exact ⟨hlo, hn, hv, by omega, hm.2⟩
    · rw [Memory.wfFrom_cons]
      exact ⟨hm.1, hm.2.1, hm.2.2.1, ih _ hm.2.2.2 (by omega) hr⟩

/-- Every write inside the address space keeps the canonical form. -/
theorem Memory.wf_writeAt (m : Memory) (n : Nat) (v : Byte) (hm : m.wf = true) (hn : n < 65536) :
    (m.writeAt n v).wf = true := by
  unfold Memory.wf Memory.writeAt at *
  split
  · exact Memory.wfFrom_eraseAt m 0 n hm
  · exact Memory.wfFrom_insertAt _ 0 n v (Memory.wfFrom_eraseAt m 0 n hm) (by omega) hn ‹_›
      (Memory.eraseAt_idem m n)

/-- The memory of `State.reset` is in canonical form. -/
theorem reset_mem_wf : State.reset.mem.wf = true := rfl

/-- The read-after-write law of the bus (R51, R52). -/
theorem State.read8_write8 (s : State) (addr : Word) (v : Byte) (x : Word) :
    (s.write8 addr v).read8 x = if x = addr then v else s.read8 x := by
  simp [State.read8, Memory.readAt_writeAt, BitVec.toNat_inj]

@[simp] theorem State.read8_write8_self (s : State) (addr : Word) (v : Byte) :
    (s.write8 addr v).read8 addr = v := by
  simp [State.read8_write8]

/-- Every write on the bus keeps the canonical form. -/
theorem State.mem_wf_write8 (s : State) (addr : Word) (v : Byte) (h : s.mem.wf = true) :
    (s.write8 addr v).mem.wf = true :=
  Memory.wf_writeAt _ _ _ h addr.isLt

theorem State.mem_wf_write16 (s : State) (addr v : Word) (h : s.mem.wf = true) :
    (s.write16 addr v).mem.wf = true :=
  State.mem_wf_write8 _ _ _ (State.mem_wf_write8 _ _ _ h)

theorem State.mem_wf_hostWrite (s : State) (addr : Word) (v : Byte) (h : s.mem.wf = true) :
    (s.hostWrite addr v).mem.wf = true :=
  State.mem_wf_write8 s addr v h

theorem State.mem_wf_push16 (s : State) (v : Word) (h : s.mem.wf = true) : (s.push16 v).mem.wf = true :=
  State.mem_wf_write8 _ _ _ (State.mem_wf_write8 _ _ _ h)

end Sys2Proof.Machine
end

