-- ==== Sys2Proof/Laws/Ops.lean ====
section
/-! SUPPORT. One lemma for each shared operation: everything it does. Provers cite these instead of unfolding
the operation. -/

namespace Sys2Proof.Machine

/-! ## Frames -/

theorem Frame.refl (regs : List Reg8) (stored : List Word) (s : State) : Frame regs stored s s :=
  ⟨fun _ _ => rfl, fun _ _ => rfl, rfl, rfl, rfl, rfl⟩

theorem Frame.trans {regs : List Reg8} {stored : List Word} {s t u : State} (h : Frame regs stored s t)
    (k : Frame regs stored t u) : Frame regs stored s u :=
  ⟨fun r hr => (k.1 r hr).trans (h.1 r hr), fun x hx => (k.2.1 x hx).trans (h.2.1 x hx),
    k.2.2.1.trans h.2.2.1, k.2.2.2.1.trans h.2.2.2.1, k.2.2.2.2.1.trans h.2.2.2.2.1,
    k.2.2.2.2.2.trans h.2.2.2.2.2⟩

theorem Frame.mono {regs regs' : List Reg8} {stored stored' : List Word} {s t : State}
    (h : Frame regs stored s t) (hr : regs ⊆ regs') (hs : stored ⊆ stored') : Frame regs' stored' s t :=
  ⟨fun r hn => h.1 r fun hm => hn (hr hm), fun x hn => h.2.1 x fun hm => hn (hs hm), h.2.2⟩

theorem Frame.setReg (s : State) (r : Reg8) (v : Byte) : Frame [r] [] s (s.setReg r v) :=
  ⟨fun q hq => State.reg_setReg_ne s r v q (by simpa using hq), fun _ _ => by simp, by simp, by simp, by simp,
    by simp⟩

theorem Frame.write8 (s : State) (addr : Word) (v : Byte) : Frame [] [addr] s (s.write8 addr v) :=
  ⟨fun _ _ => by simp, fun x hx => by simp [State.read8_write8, (by simpa using hx : x ≠ addr)], rfl, rfl, rfl,
    rfl⟩

theorem Frame.setSp (s : State) (v : Word) : Frame [] [] s (s.setSp v) :=
  ⟨fun _ _ => by simp, fun _ _ => rfl, rfl, rfl, rfl, rfl⟩

theorem Frame.setPc (s : State) (v : Word) : Frame [] [] s (s.setPc v) :=
  ⟨fun _ _ => by simp, fun _ _ => rfl, rfl, rfl, rfl, rfl⟩

theorem Frame.setFlags (s : State) (f : Flags) : Frame [] [] s (s.setFlags f) :=
  ⟨fun _ _ => by simp, fun _ _ => rfl, rfl, rfl, rfl, rfl⟩

theorem Frame.setCy (s : State) (v : Bool) : Frame [] [] s (s.setCy v) :=
  ⟨fun _ _ => by simp, fun _ _ => rfl, rfl, rfl, rfl, rfl⟩

/-! ## Sixteen-bit accesses -/

theorem word_succ_ne (w : Word) : w + 1 ≠ w := by
  intro h
  have := congrArg BitVec.toNat h
  simp [BitVec.toNat_add] at this
  omega

/-- Everything `write16` does (R14). -/
theorem State.write16_spec (s : State) (addr v : Word) :
    (∀ x, (s.write16 addr v).read8 x =
      if x = addr + 1 then highByte v else if x = addr then lowByte v else s.read8 x) ∧
    Frame [] [addr, addr + 1] s (s.write16 addr v) ∧
    (s.write16 addr v).sp = s.sp ∧ (s.write16 addr v).pc = s.pc ∧ (s.write16 addr v).flags = s.flags := by
  refine ⟨fun x => ?_, ?_, rfl, rfl, rfl⟩
  · simp [State.write16, State.read8_write8]
  · exact ((Frame.write8 s addr _).mono (by simp) (by simp)).trans
      ((Frame.write8 _ (addr + 1) _).mono (by simp) (by simp))

/-- A stored word reads back. -/
@[simp] theorem State.read16_write16 (s : State) (addr v : Word) : (s.write16 addr v).read16 addr = v := by
  simp [State.read16, (State.write16_spec s addr v).1]

/-! ## The stack -/

/-- Everything `push16` does (R218). -/
theorem State.push16_spec (s : State) (v : Word) :
    (∀ x, (s.push16 v).read8 x =
      if x = s.sp - 2 then lowByte v else if x = s.sp - 1 then highByte v else s.read8 x) ∧
    Frame [] [s.sp - 1, s.sp - 2] s (s.push16 v) ∧
    (s.push16 v).sp = s.sp - 2 ∧ (s.push16 v).pc = s.pc ∧ (s.push16 v).flags = s.flags := by
  refine ⟨fun x => ?_, ?_, rfl, rfl, rfl⟩
  · simp [State.push16, State.read8_write8]
  · exact (((Frame.write8 s (s.sp - 1) _).mono (by simp) (by simp)).trans
      ((Frame.write8 _ (s.sp - 2) _).mono (by simp) (by simp))).trans
        ((Frame.setSp _ _).mono (by simp) (by simp))

/-- What `pop16` yields (R219). -/
@[simp] theorem State.pop16_fst (s : State) : s.pop16.1 = joinBytes (s.read8 (s.sp + 1)) (s.read8 s.sp) := rfl

/-- What `pop16` does to the state: SP alone (R219). -/
@[simp] theorem State.pop16_snd (s : State) : s.pop16.2 = s.setSp (s.sp + 2) := rfl

/-! ## Transfer of control -/

/-- Everything `callTo` does (R310). -/
theorem State.callTo_spec (s : State) (target : Word) :
    (∀ x, (s.callTo target).read8 x =
      if x = s.sp - 2 then lowByte s.pc else if x = s.sp - 1 then highByte s.pc else s.read8 x) ∧
    Frame [] [s.sp - 1, s.sp - 2] s (s.callTo target) ∧
    (s.callTo target).sp = s.sp - 2 ∧ (s.callTo target).pc = target ∧ (s.callTo target).flags = s.flags :=
  ⟨fun x => (State.push16_spec s s.pc).1 x,
    (State.push16_spec s s.pc).2.1.trans ((Frame.setPc _ _).mono (by simp) (by simp)), rfl, rfl, rfl⟩

/-- Everything `returnToCaller` does (R319). -/
theorem State.returnToCaller_spec (s : State) :
    s.returnToCaller = (s.setSp (s.sp + 2)).setPc (joinBytes (s.read8 (s.sp + 1)) (s.read8 s.sp)) := rfl

/-- The two cases of a conditional jump (R302). -/
theorem State.jumpIf_cases (s : State) (k : Cond) (target : Word) :
    (condHolds k s.flags = true ∧ s.jumpIf k target = s.setPc target) ∨
    (condHolds k s.flags = false ∧ s.jumpIf k target = s) := by
  cases h : condHolds k s.flags
  · exact .inr ⟨rfl, by simp [State.jumpIf, h]⟩
  · exact .inl ⟨rfl, by simp [State.jumpIf, h]⟩

/-- The two cases of a conditional call (R311). -/
theorem State.callIf_cases (s : State) (k : Cond) (target : Word) :
    (condHolds k s.flags = true ∧ s.callIf k target = s.callTo target) ∨
    (condHolds k s.flags = false ∧ s.callIf k target = s) := by
  cases h : condHolds k s.flags
  · exact .inr ⟨rfl, by simp [State.callIf, h]⟩
  · exact .inl ⟨rfl, by simp [State.callIf, h]⟩

/-- The two cases of a conditional return (R320). -/
theorem State.returnIf_cases (s : State) (k : Cond) :
    (condHolds k s.flags = true ∧ s.returnIf k = s.returnToCaller) ∨
    (condHolds k s.flags = false ∧ s.returnIf k = s) := by
  cases h : condHolds k s.flags
  · exact .inr ⟨rfl, by simp [State.returnIf, h]⟩
  · exact .inl ⟨rfl, by simp [State.returnIf, h]⟩

/-! ## Operands -/

/-- Everything `setOperand` does (R83). -/
theorem State.setOperand_spec (s : State) (x : Operand8) (v : Byte) :
    (s.setOperand x v).operand x = v ∧ Frame (regsOf x) (storedBy s x) s (s.setOperand x v) ∧
    (s.setOperand x v).sp = s.sp ∧ (s.setOperand x v).pc = s.pc ∧ (s.setOperand x v).flags = s.flags := by
  cases x with
  | reg r => exact ⟨by simp [State.setOperand, State.operand], Frame.setReg s r v, by simp [State.setOperand],
      by simp [State.setOperand], by simp [State.setOperand]⟩
  | m => exact ⟨by simp [State.setOperand, State.operand], Frame.write8 s s.hl v, rfl, rfl, rfl⟩

/-- Everything `setPair` does (R84). -/
theorem State.setPair_spec (s : State) (p : Pair) (v : Word) :
    (s.setPair p v).pair p = v ∧ Frame (pairRegs p) [] s (s.setPair p v) ∧
    (s.setPair p v).sp = (if p = .sp then v else s.sp) ∧ (s.setPair p v).pc = s.pc ∧
    (s.setPair p v).flags = s.flags := by
  have hf : ∀ (r q : Reg8) (x y : Byte), Frame [r, q] [] s ((s.setReg r x).setReg q y) := fun r q x y =>
    ((Frame.setReg s r x).mono (by simp) (by simp)).trans ((Frame.setReg _ q y).mono (by simp) (by simp))
  cases p with
  | bc => exact ⟨by simp [State.setPair, State.pair, State.bc], hf .b .c _ _, rfl, rfl, rfl⟩
  | de => exact ⟨by simp [State.setPair, State.pair, State.de], hf .d .e _ _, rfl, rfl, rfl⟩
  | hl => exact ⟨by simp [State.setPair, State.pair, State.hl], hf .h .l _ _, rfl, rfl, rfl⟩
  | sp => exact ⟨rfl, (Frame.setSp s v).mono (by simp [pairRegs]) (by simp), rfl, rfl, rfl⟩

/-! ## Fetching -/

/-- Everything `fetchBytes` does to the state: PC moves past the bytes (R15). -/
theorem State.fetchBytes_snd (s : State) (n : Nat) :
    (s.fetchBytes n).2 = s.setPc (s.pc + BitVec.ofNat 16 n) := by
  induction n generalizing s with
  | zero => simp [State.fetchBytes, State.setPc]
  | succ n ih =>
    simp only [State.fetchBytes, State.fetch8, ih, State.setPc]
    have : s.pc + 1 + BitVec.ofNat 16 n = s.pc + BitVec.ofNat 16 (n + 1) := by
      rw [Nat.add_comm n 1, BitVec.ofNat_add, BitVec.add_assoc]
      rfl
    rw [this]

/-- Everything a fetch does to the state: PC moves past the instruction (R80, R82). -/
theorem State.fetchInstr_snd (s : State) :
    s.fetchInstr.2 = s.setPc (s.pc + BitVec.ofNat 16 (opcodeLength (s.read8 s.pc))) := by
  simp only [State.fetchInstr, State.fetch8, State.fetchBytes_snd, State.setPc]
  have : s.pc + 1 + BitVec.ofNat 16 (opcodeLength (s.read8 s.pc) - 1)
      = s.pc + BitVec.ofNat 16 (opcodeLength (s.read8 s.pc)) := by
    rcases opcodeLength_cases (s.read8 s.pc) with h | h | h <;> rw [h] <;> simp [BitVec.add_assoc]
  rw [this]

/-- The bytes a fetch hands to the decoder, by the length of the opcode (R91). -/
theorem State.fetchInstr_fst (s : State) :
    s.fetchInstr.1 = decode (s.read8 s.pc ::
      (if opcodeLength (s.read8 s.pc) = 1 then []
        else if opcodeLength (s.read8 s.pc) = 2 then [s.read8 (s.pc + 1)]
        else [s.read8 (s.pc + 1), s.read8 (s.pc + 1 + 1)])) := by
  rcases opcodeLength_cases (s.read8 s.pc) with h | h | h <;>
    simp [State.fetchInstr, State.fetch8, h, State.fetchBytes]

/-! ## The ports -/

/-- Everything `portIn` does (R352). -/
theorem State.portIn_cases (s : State) (port : Byte) :
    (s.seam = .stub ∧ s.portIn port = s) ∨
    (s.seam = .wired ∧
      s.portIn port = { s with a := Config.portInByte s.portReads port, portReads := s.portReads + 1 }) := by
  cases h : s.seam
  · exact .inl ⟨rfl, by simp [State.portIn, h]⟩
  · exact .inr ⟨rfl, by simp [State.portIn, h]⟩

/-- Everything `portOut` does (R353). -/
theorem State.portOut_cases (s : State) (port : Byte) :
    (s.seam = .stub ∧ s.portOut port = s) ∨
    (s.seam = .wired ∧ s.portOut port = { s with portWrites := (port, s.a) :: s.portWrites }) := by
  cases h : s.seam
  · exact .inl ⟨rfl, by simp [State.portOut, h]⟩
  · exact .inr ⟨rfl, by simp [State.portOut, h]⟩

/-! ## The arithmetic units, in numbers -/

theorem add8_r (a b : Byte) (cin : Bool) :
    (add8 a b cin).r.toNat = (a.toNat + b.toNat + cin.toNat) % 256 := by
  simp [add8]

theorem sub8_r (a b : Byte) (bin : Bool) :
    (sub8 a b bin).r.toNat = (a.toNat + 512 - b.toNat - bin.toNat) % 256 := by
  have ha := a.isLt
  have hb := b.isLt
  have hc : bin.toNat ≤ 1 := by cases bin <;> simp
  simp only [sub8, BitVec.toNat_ofInt]
  omega

theorem add16_r (x y : Word) : (add16 x y).1.toNat = (x.toNat + y.toNat) % 65536 := by
  simp [add16]

/-- The model's count of 1 bits and the spec's exclusive-or form of parity agree (R110). -/
theorem parity_eq_evenParity : ∀ v : Byte, parity v = evenParity v := by decide

theorem szpOf_ofResult (r : Byte) (ac cy : Bool) : SzpOf (Flags.ofResult r ac cy) r := by
  have := r.isLt
  refine ⟨?_, ?_, parity_eq_evenParity r⟩
  · simp [Flags.ofResult, BitVec.getLsbD, Nat.testBit_eq_decide_div_mod_eq]
    omega
  · simp [Flags.ofResult, BitVec.toNat_eq]

/-! ## Accumulator operations -/

/-- Reading an operand after the flags alone change. -/
@[simp] theorem State.operand_setFlags (s : State) (f : Flags) (x : Operand8) :
    (s.setFlags f).operand x = s.operand x := by
  cases x with
  | reg r => cases r <;> rfl
  | m => rfl

/-- Everything `accumulate` does (R180 to R187). -/
theorem State.accumulate_spec (s : State) (out : AluOut) :
    (s.accumulate out).a = out.r ∧ SzpOf (s.accumulate out).flags out.r ∧
    (s.accumulate out).flags.ac = out.ac ∧ (s.accumulate out).flags.cy = out.cy ∧
    (s.accumulate out).sp = s.sp ∧ (s.accumulate out).pc = s.pc ∧ Frame [.a] [] s (s.accumulate out) :=
  ⟨rfl, szpOf_ofResult _ _ _, rfl, rfl, rfl, rfl,
    (Frame.setReg s .a _).trans ((Frame.setFlags _ _).mono (by simp) (by simp))⟩

/-- Everything `compareFlags` does (R194). -/
theorem State.compareFlags_spec (s : State) (x : Byte) :
    SzpOf (s.compareFlags x).flags (sub8 s.a x false).r ∧
    (s.compareFlags x).flags.ac = (sub8 s.a x false).ac ∧ (s.compareFlags x).flags.cy = (sub8 s.a x false).cy ∧
    (s.compareFlags x).sp = s.sp ∧ (s.compareFlags x).pc = s.pc ∧ Frame [] [] s (s.compareFlags x) :=
  ⟨szpOf_ofResult _ _ _, rfl, rfl, rfl, rfl, Frame.setFlags _ _⟩

/-- Everything `accumulateLogic` does (R188 to R193). -/
theorem State.accumulateLogic_spec (s : State) (r : Byte) : LogicTo s (s.accumulateLogic r) r :=
  ⟨rfl, szpOf_ofResult _ _ _, rfl, rfl, rfl, rfl,
    (Frame.setReg s .a _).trans ((Frame.setFlags _ _).mono (by simp) (by simp))⟩

/-- Everything `rotateTo` does (R196 to R199). -/
theorem State.rotateTo_spec (s : State) (out : Byte × Bool) :
    (s.rotateTo out).a = out.1 ∧ (s.rotateTo out).flags = { s.flags with cy := out.2 } ∧
    (s.rotateTo out).sp = s.sp ∧ (s.rotateTo out).pc = s.pc ∧ Frame [.a] [] s (s.rotateTo out) :=
  ⟨rfl, rfl, rfl, rfl, (Frame.setReg s .a _).trans ((Frame.setCy _ _).mono (by simp) (by simp))⟩

/-- Everything `countTo` does (R133 to R136). -/
theorem State.countTo_spec (s : State) (x : Operand8) (out : Byte × Bool) :
    (s.countTo x out).operand x = out.1 ∧ SzpOf (s.countTo x out).flags out.1 ∧
    (s.countTo x out).flags.ac = out.2 ∧ (s.countTo x out).flags.cy = s.flags.cy ∧
    (s.countTo x out).sp = s.sp ∧ (s.countTo x out).pc = s.pc ∧
    Frame (regsOf x) (storedBy s x) s (s.countTo x out) := by
  have h := State.setOperand_spec s x out.1
  exact ⟨by rw [State.countTo, State.operand_setFlags, h.1], szpOf_ofResult _ _ _, rfl, rfl, h.2.2.1, h.2.2.2.1,
    h.2.1.trans ((Frame.setFlags _ _).mono (by simp) (by simp))⟩

/-! ## The operand of PUSH and POP -/

/-- The pair PUSH stores, by its halves (R21, R33). -/
theorem State.stackPair_eq (s : State) (p : StackPair) : s.stackPair p = joinBytes (stackHigh s p) (stackLow s p) := by
  cases p <;> rfl

/-- Everything `setStackPair` does (R224 to R227). -/
theorem State.setStackPair_spec (s : State) (p : StackPair) (v : Word) :
    stackHigh (s.setStackPair p v) p = highByte v ∧ (s.setStackPair p v).sp = s.sp ∧
    (s.setStackPair p v).pc = s.pc ∧ Frame (stackRegs p) [] s (s.setStackPair p v) ∧
    (if p = .psw then (s.setStackPair p v).flags = Flags.unpack (lowByte v)
      else stackLow (s.setStackPair p v) p = lowByte v ∧ (s.setStackPair p v).flags = s.flags) := by
  cases p with
  | bc => exact ⟨rfl, rfl, rfl, (State.setPair_spec s .bc v).2.1, rfl, rfl⟩
  | de => exact ⟨rfl, rfl, rfl, (State.setPair_spec s .de v).2.1, rfl, rfl⟩
  | hl => exact ⟨rfl, rfl, rfl, (State.setPair_spec s .hl v).2.1, rfl, rfl⟩
  | psw => exact ⟨rfl, rfl, rfl, (Frame.setReg s .a _).trans ((Frame.setFlags _ _).mono (by simp) (by simp)), rfl⟩

/-! ## Runs -/

/-- One step more of a run of any machine. -/
theorem run_succ (M : Host.Core) (k : Nat) (s : M.State) :
    M.run (k + 1) s = match M.step s with
      | .next t => M.run k t
      | .fault r => .fault r
      | .refused r => .refused r :=
  rfl

end Sys2Proof.Machine
end

