-- ==== Sys2Proof/Laws/PerInstr.lean ====
section
/-! SUPPORT. Facts about every instruction as syntax, one lemma for each constructor. -/

namespace Sys2Proof.Laws.EncodedLength

/-- The encoding is as long as its opcode byte says (R91). -/
def Statement (i : Instr) : Prop := i.length = opcodeLength ((encode i).headD 0)

/-- The statement from the bytes of the encoding. -/
theorem of_bytes {i : Instr} {op : Byte} {operands : List Byte} (n : Nat) (h : encode i = op :: operands)
    (hn : operands.length = n) (hl : opcodeLength op = n + 1) : Statement i := by
  simp [Statement, Instr.length, h, hn, hl]

theorem nop : Statement .nop := of_bytes 0 rfl rfl (by decide)

theorem stc : Statement .stc := of_bytes 0 rfl rfl (by decide)

theorem cmc : Statement .cmc := of_bytes 0 rfl rfl (by decide)

theorem inr (x : Operand8) : Statement (.inr x) := by
  rcases x with (_ | _ | _ | _ | _ | _ | _) | _ <;> exact of_bytes 0 rfl rfl (by decide)

theorem dcr (x : Operand8) : Statement (.dcr x) := by
  rcases x with (_ | _ | _ | _ | _ | _ | _) | _ <;> exact of_bytes 0 rfl rfl (by decide)

theorem cma : Statement .cma := of_bytes 0 rfl rfl (by decide)

theorem daa : Statement .daa := of_bytes 0 rfl rfl (by decide)

theorem mov (dst : Operand8) (src : Operand8) : Statement (.mov dst src) := by
  rcases dst with (_ | _ | _ | _ | _ | _ | _) | _ <;> rcases src with (_ | _ | _ | _ | _ | _ | _) | _ <;> exact of_bytes 0 rfl rfl (by decide)

theorem stax (p : IndexPair) : Statement (.stax p) := by
  cases p <;> exact of_bytes 0 rfl rfl (by decide)

theorem ldax (p : IndexPair) : Statement (.ldax p) := by
  cases p <;> exact of_bytes 0 rfl rfl (by decide)

theorem add (x : Operand8) : Statement (.add x) := by
  rcases x with (_ | _ | _ | _ | _ | _ | _) | _ <;> exact of_bytes 0 rfl rfl (by decide)

theorem adc (x : Operand8) : Statement (.adc x) := by
  rcases x with (_ | _ | _ | _ | _ | _ | _) | _ <;> exact of_bytes 0 rfl rfl (by decide)

theorem sub (x : Operand8) : Statement (.sub x) := by
  rcases x with (_ | _ | _ | _ | _ | _ | _) | _ <;> exact of_bytes 0 rfl rfl (by decide)

theorem sbb (x : Operand8) : Statement (.sbb x) := by
  rcases x with (_ | _ | _ | _ | _ | _ | _) | _ <;> exact of_bytes 0 rfl rfl (by decide)

theorem ana (x : Operand8) : Statement (.ana x) := by
  rcases x with (_ | _ | _ | _ | _ | _ | _) | _ <;> exact of_bytes 0 rfl rfl (by decide)

theorem xra (x : Operand8) : Statement (.xra x) := by
  rcases x with (_ | _ | _ | _ | _ | _ | _) | _ <;> exact of_bytes 0 rfl rfl (by decide)

theorem ora (x : Operand8) : Statement (.ora x) := by
  rcases x with (_ | _ | _ | _ | _ | _ | _) | _ <;> exact of_bytes 0 rfl rfl (by decide)

theorem cmp (x : Operand8) : Statement (.cmp x) := by
  rcases x with (_ | _ | _ | _ | _ | _ | _) | _ <;> exact of_bytes 0 rfl rfl (by decide)

theorem rlc : Statement .rlc := of_bytes 0 rfl rfl (by decide)

theorem rrc : Statement .rrc := of_bytes 0 rfl rfl (by decide)

theorem ral : Statement .ral := of_bytes 0 rfl rfl (by decide)

theorem rar : Statement .rar := of_bytes 0 rfl rfl (by decide)

theorem push (p : StackPair) : Statement (.push p) := by
  cases p <;> exact of_bytes 0 rfl rfl (by decide)

theorem pop (p : StackPair) : Statement (.pop p) := by
  cases p <;> exact of_bytes 0 rfl rfl (by decide)

theorem dad (p : Pair) : Statement (.dad p) := by
  cases p <;> exact of_bytes 0 rfl rfl (by decide)

theorem inx (p : Pair) : Statement (.inx p) := by
  cases p <;> exact of_bytes 0 rfl rfl (by decide)

theorem dcx (p : Pair) : Statement (.dcx p) := by
  cases p <;> exact of_bytes 0 rfl rfl (by decide)

theorem xchg : Statement .xchg := of_bytes 0 rfl rfl (by decide)

theorem xthl : Statement .xthl := of_bytes 0 rfl rfl (by decide)

theorem sphl : Statement .sphl := of_bytes 0 rfl rfl (by decide)

theorem lxi (p : Pair) (d16 : Word) : Statement (.lxi p d16) := by
  cases p <;> exact of_bytes 2 rfl rfl (by decide)

theorem mvi (x : Operand8) (d8 : Byte) : Statement (.mvi x d8) := by
  rcases x with (_ | _ | _ | _ | _ | _ | _) | _ <;> exact of_bytes 1 rfl rfl (by decide)

theorem adi (d8 : Byte) : Statement (.adi d8) := of_bytes 1 rfl rfl (by decide)

theorem aci (d8 : Byte) : Statement (.aci d8) := of_bytes 1 rfl rfl (by decide)

theorem sui (d8 : Byte) : Statement (.sui d8) := of_bytes 1 rfl rfl (by decide)

theorem sbi (d8 : Byte) : Statement (.sbi d8) := of_bytes 1 rfl rfl (by decide)

theorem ani (d8 : Byte) : Statement (.ani d8) := of_bytes 1 rfl rfl (by decide)

theorem xri (d8 : Byte) : Statement (.xri d8) := of_bytes 1 rfl rfl (by decide)

theorem ori (d8 : Byte) : Statement (.ori d8) := of_bytes 1 rfl rfl (by decide)

theorem cpi (d8 : Byte) : Statement (.cpi d8) := of_bytes 1 rfl rfl (by decide)

theorem sta (a16 : Word) : Statement (.sta a16) := of_bytes 2 rfl rfl (by decide)

theorem lda (a16 : Word) : Statement (.lda a16) := of_bytes 2 rfl rfl (by decide)

theorem shld (a16 : Word) : Statement (.shld a16) := of_bytes 2 rfl rfl (by decide)

theorem lhld (a16 : Word) : Statement (.lhld a16) := of_bytes 2 rfl rfl (by decide)

theorem jmp (a16 : Word) : Statement (.jmp a16) := of_bytes 2 rfl rfl (by decide)

theorem pchl : Statement .pchl := of_bytes 0 rfl rfl (by decide)

theorem jnz (a16 : Word) : Statement (.jnz a16) := of_bytes 2 rfl rfl (by decide)

theorem jz (a16 : Word) : Statement (.jz a16) := of_bytes 2 rfl rfl (by decide)

theorem jnc (a16 : Word) : Statement (.jnc a16) := of_bytes 2 rfl rfl (by decide)

theorem jc (a16 : Word) : Statement (.jc a16) := of_bytes 2 rfl rfl (by decide)

theorem jpo (a16 : Word) : Statement (.jpo a16) := of_bytes 2 rfl rfl (by decide)

theorem jpe (a16 : Word) : Statement (.jpe a16) := of_bytes 2 rfl rfl (by decide)

theorem jp (a16 : Word) : Statement (.jp a16) := of_bytes 2 rfl rfl (by decide)

theorem jm (a16 : Word) : Statement (.jm a16) := of_bytes 2 rfl rfl (by decide)

theorem call (a16 : Word) : Statement (.call a16) := of_bytes 2 rfl rfl (by decide)

theorem cnz (a16 : Word) : Statement (.cnz a16) := of_bytes 2 rfl rfl (by decide)

theorem cz (a16 : Word) : Statement (.cz a16) := of_bytes 2 rfl rfl (by decide)

theorem cnc (a16 : Word) : Statement (.cnc a16) := of_bytes 2 rfl rfl (by decide)

theorem cc (a16 : Word) : Statement (.cc a16) := of_bytes 2 rfl rfl (by decide)

theorem cpo (a16 : Word) : Statement (.cpo a16) := of_bytes 2 rfl rfl (by decide)

theorem cpe (a16 : Word) : Statement (.cpe a16) := of_bytes 2 rfl rfl (by decide)

theorem cp (a16 : Word) : Statement (.cp a16) := of_bytes 2 rfl rfl (by decide)

theorem cm (a16 : Word) : Statement (.cm a16) := of_bytes 2 rfl rfl (by decide)

theorem ret : Statement .ret := of_bytes 0 rfl rfl (by decide)

theorem rnz : Statement .rnz := of_bytes 0 rfl rfl (by decide)

theorem rz : Statement .rz := of_bytes 0 rfl rfl (by decide)

theorem rnc : Statement .rnc := of_bytes 0 rfl rfl (by decide)

theorem rc : Statement .rc := of_bytes 0 rfl rfl (by decide)

theorem rpo : Statement .rpo := of_bytes 0 rfl rfl (by decide)

theorem rpe : Statement .rpe := of_bytes 0 rfl rfl (by decide)

theorem rp : Statement .rp := of_bytes 0 rfl rfl (by decide)

theorem rm : Statement .rm := of_bytes 0 rfl rfl (by decide)

theorem rst (n : BitVec 3) : Statement (.rst n) := by
  revert n
  unfold Statement
  decide

theorem ei : Statement .ei := of_bytes 0 rfl rfl (by decide)

theorem di : Statement .di := of_bytes 0 rfl rfl (by decide)

theorem inp (port : Byte) : Statement (.inp port) := of_bytes 1 rfl rfl (by decide)

theorem outp (port : Byte) : Statement (.outp port) := of_bytes 1 rfl rfl (by decide)

theorem hlt : Statement .hlt := of_bytes 0 rfl rfl (by decide)

theorem undefNop (hole : NopHole) : Statement (.undefNop hole) := by
  cases hole <;> exact of_bytes 0 rfl rfl (by decide)

theorem undefRet : Statement .undefRet := of_bytes 0 rfl rfl (by decide)

theorem undefJmp (a16 : Word) : Statement (.undefJmp a16) := of_bytes 2 rfl rfl (by decide)

end Sys2Proof.Laws.EncodedLength
end

