-- ==== Sys2Proof/Tests/Slice0.lean ====
section
/-! SUPPORT. The model's own tests. The one-step tests are vectors of 95_test_vectors.md under their numbers,
whose results that file derives from the rules; the decode tests write words out from the patterns of
30_encoding.md R88; the witnesses show states and operands that meet the hypotheses of the obligations. -/

namespace Sys2Proof.Tests

open Sys2Proof.Machine

/-- The vectors' usual start: every field 0, PC at 0x0100. -/
def start : State := State.construct 0x0100 [] .stub

/-- Five flags in the order S Z AC P CY, as the vectors write them. -/
def szapc (w : BitVec 5) : Flags :=
  { s := w.getLsbD 4, z := w.getLsbD 3, ac := w.getLsbD 2, p := w.getLsbD 1, cy := w.getLsbD 0 }

/-- The state with some bytes of memory set. -/
def poke (s : State) (cells : List (Word × Byte)) : State :=
  cells.foldl (fun u c => u.hostWrite c.1 c.2) s

/-- The state with an instruction's bytes at PC. -/
def place (s : State) : List Byte → State
  | [] => s
  | [x] => s.hostWrite s.pc x
  | [x, y] => (s.hostWrite s.pc x).hostWrite (s.pc + 1) y
  | x :: y :: z :: _ => ((s.hostWrite s.pc x).hostWrite (s.pc + 1) y).hostWrite (s.pc + 2) z

/-- What shows in the state after one step. -/
def stepped {α : Type} (show' : State → α) (s : State) : Option α :=
  match step s with
  | .next t => some (show' t)
  | .fault _ | .refused _ => none

/-- What shows after one step from a state with these bytes of memory and this instruction at PC. -/
def after {α : Type} (show' : State → α) (s : State) (cells : List (Word × Byte)) (instr : List Byte) :
    Option α :=
  stepped show' (place (poke s cells) instr)

/-! ## WellFormed: the one check, and its neighbours -/

theorem test_mov_m_m_is_refused : (Instr.mov .m .m).wf = false := by decide

theorem test_mov_neighbours_are_well_formed :
    (Instr.mov .m (.reg .a)).wf = true ∧ (Instr.mov (.reg .a) .m).wf = true ∧ Instr.hlt.wf = true := by decide

theorem test_reset_memory_is_canonical : State.reset.mem.wf = true := by decide

theorem test_unsorted_or_idle_cells_are_not_canonical :
    Memory.wf [(2, 0x01), (1, 0x01)] = false ∧ Memory.wf [(1, 0x01), (1, 0x02)] = false ∧
    Memory.wf [(1, 0x00)] = false ∧ Memory.wf [(65536, 0x01)] = false ∧
    Memory.wf [(1, 0x01), (65535, 0x02)] = true := by decide

/-! ## Words written out bit by bit from the patterns of R88 -/

/-- `00000000`, `00110111`, `00111111`, `00ddd100`, `00ddd101`, `00101111`, `00100111`. -/
theorem test_decode_family_41 :
    decode [0b00000000] = .ok .nop [] ∧ decode [0b00110111] = .ok .stc [] ∧ decode [0b00111111] = .ok .cmc [] ∧
    decode [0b00011100] = .ok (.inr (.reg .e)) [] ∧ decode [0b00110101] = .ok (.dcr .m) [] ∧
    decode [0b00101111] = .ok .cma [] ∧ decode [0b00100111] = .ok .daa [] := by decide

/-- `01dddsss`, `000p0010`, `000p1010`: destination and source in their fields, every register code of R83. -/
theorem test_decode_family_42 :
    decode [0b01000001] = .ok (.mov (.reg .b) (.reg .c)) [] ∧
    decode [0b01010011] = .ok (.mov (.reg .d) (.reg .e)) [] ∧
    decode [0b01100101] = .ok (.mov (.reg .h) (.reg .l)) [] ∧ decode [0b01110111] = .ok (.mov .m (.reg .a)) [] ∧
    decode [0b01111110] = .ok (.mov (.reg .a) .m) [] ∧ decode [0b00010010] = .ok (.stax .de) [] ∧
    decode [0b00001010] = .ok (.ldax .bc) [] := by decide

/-- `10aaasss` and the four rotates. -/
theorem test_decode_family_43 :
    decode [0b10000000] = .ok (.add (.reg .b)) [] ∧ decode [0b10001001] = .ok (.adc (.reg .c)) [] ∧
    decode [0b10010010] = .ok (.sub (.reg .d)) [] ∧ decode [0b10011011] = .ok (.sbb (.reg .e)) [] ∧
    decode [0b10100100] = .ok (.ana (.reg .h)) [] ∧ decode [0b10101101] = .ok (.xra (.reg .l)) [] ∧
    decode [0b10110110] = .ok (.ora .m) [] ∧ decode [0b10111111] = .ok (.cmp (.reg .a)) [] ∧
    decode [0b00000111] = .ok .rlc [] ∧ decode [0b00001111] = .ok .rrc [] ∧ decode [0b00010111] = .ok .ral [] ∧
    decode [0b00011111] = .ok .rar [] := by decide

/-- `11pp0101`, `11pp0001`, `00pp1001`, `00pp0011`, `00pp1011`, XCHG, XTHL, SPHL. -/
theorem test_decode_family_44 :
    decode [0b11000101] = .ok (.push .bc) [] ∧ decode [0b11110101] = .ok (.push .psw) [] ∧
    decode [0b11010001] = .ok (.pop .de) [] ∧ decode [0b11100001] = .ok (.pop .hl) [] ∧
    decode [0b00111001] = .ok (.dad .sp) [] ∧ decode [0b00100011] = .ok (.inx .hl) [] ∧
    decode [0b00011011] = .ok (.dcx .de) [] ∧ decode [0b11101011] = .ok .xchg [] ∧
    decode [0b11100011] = .ok .xthl [] ∧ decode [0b11111001] = .ok .sphl [] := by decide

/-- `00pp0001`, `00ddd110`, `11aaa110` and the four direct accesses, with their operand bytes. -/
theorem test_decode_family_45 :
    decode [0b00110001, 0x34, 0x12] = .ok (.lxi .sp 0x1234) [] ∧
    decode [0b00111110, 0x05] = .ok (.mvi (.reg .a) 0x05) [] ∧ decode [0b11000110, 0x03] = .ok (.adi 0x03) [] ∧
    decode [0b11001110, 0x03] = .ok (.aci 0x03) [] ∧ decode [0b11010110, 0x03] = .ok (.sui 0x03) [] ∧
    decode [0b11011110, 0x03] = .ok (.sbi 0x03) [] ∧ decode [0b11100110, 0x03] = .ok (.ani 0x03) [] ∧
    decode [0b11101110, 0x03] = .ok (.xri 0x03) [] ∧ decode [0b11110110, 0x03] = .ok (.ori 0x03) [] ∧
    decode [0b11111110, 0x03] = .ok (.cpi 0x03) [] ∧ decode [0b00110010, 0x34, 0x12] = .ok (.sta 0x1234) [] ∧
    decode [0b00111010, 0x34, 0x12] = .ok (.lda 0x1234) [] ∧
    decode [0b00100010, 0x34, 0x12] = .ok (.shld 0x1234) [] ∧
    decode [0b00101010, 0x34, 0x12] = .ok (.lhld 0x1234) [] := by decide

/-- JMP, PCHL and `11ccc010`, `11ccc100`, `11ccc000`: every condition code of R85; CALL, RET, `11nnn111`. -/
theorem test_decode_jumps :
    decode [0b11000011, 0x00, 0x3E] = .ok (.jmp 0x3E00) [] ∧ decode [0b11101001] = .ok .pchl [] ∧
    decode [0b11000010, 0x50, 0x01] = .ok (.jnz 0x0150) [] ∧ decode [0b11001010, 0x50, 0x01] = .ok (.jz 0x0150) [] ∧
    decode [0b11010010, 0x50, 0x01] = .ok (.jnc 0x0150) [] ∧ decode [0b11011010, 0x50, 0x01] = .ok (.jc 0x0150) [] ∧
    decode [0b11100010, 0x50, 0x01] = .ok (.jpo 0x0150) [] ∧ decode [0b11101010, 0x50, 0x01] = .ok (.jpe 0x0150) [] ∧
    decode [0b11110010, 0x50, 0x01] = .ok (.jp 0x0150) [] ∧
    decode [0b11111010, 0x50, 0x01] = .ok (.jm 0x0150) [] := by decide

theorem test_decode_calls :
    decode [0b11001101, 0x00, 0x02] = .ok (.call 0x0200) [] ∧
    decode [0b11000100, 0x00, 0x02] = .ok (.cnz 0x0200) [] ∧ decode [0b11001100, 0x00, 0x02] = .ok (.cz 0x0200) [] ∧
    decode [0b11010100, 0x00, 0x02] = .ok (.cnc 0x0200) [] ∧ decode [0b11011100, 0x00, 0x02] = .ok (.cc 0x0200) [] ∧
    decode [0b11100100, 0x00, 0x02] = .ok (.cpo 0x0200) [] ∧ decode [0b11101100, 0x00, 0x02] = .ok (.cpe 0x0200) [] ∧
    decode [0b11110100, 0x00, 0x02] = .ok (.cp 0x0200) [] ∧ decode [0b11111100, 0x00, 0x02] = .ok (.cm 0x0200) [] ∧
    decode [0b11101111] = .ok (.rst 5) [] := by decide

theorem test_decode_returns :
    decode [0b11001001] = .ok .ret [] ∧ decode [0b11000000] = .ok .rnz [] ∧ decode [0b11001000] = .ok .rz [] ∧
    decode [0b11010000] = .ok .rnc [] ∧ decode [0b11011000] = .ok .rc [] ∧ decode [0b11100000] = .ok .rpo [] ∧
    decode [0b11101000] = .ok .rpe [] ∧ decode [0b11110000] = .ok .rp [] ∧ decode [0b11111000] = .ok .rm [] := by
  decide

/-- EI, DI, IN, OUT, HLT and the undefined bytes. -/
theorem test_decode_families_47_and_48 :
    decode [0b11111011] = .ok .ei [] ∧ decode [0b11110011] = .ok .di [] ∧
    decode [0b11011011, 0x01] = .ok (.inp 0x01) [] ∧ decode [0b11010011, 0x10] = .ok (.outp 0x10) [] ∧
    decode [0b01110110] = .ok .hlt [] ∧ decode [0b00001000] = .ok (.undefNop .x08) [] ∧
    decode [0b00111000, 0x00] = .ok (.undefNop .x38) [0x00] ∧ decode [0b11011101] = .ok (.undefNop .xDD) [] ∧
    decode [0b11011001] = .ok .undefRet [] ∧ decode [0b11001011, 0x00, 0x3E] = .ok (.undefJmp 0x3E00) [] := by
  decide

theorem test_truncated_words_are_rejected_by_name :
    (∃ why, decode [] = .rejected why) ∧ (∃ why, decode [0xC6] = .rejected why) ∧
    (∃ why, decode [0xC3, 0x00] = .rejected why) := ⟨⟨_, rfl⟩, ⟨_, rfl⟩, ⟨_, rfl⟩⟩

theorem test_encode :
    encode (.lxi .sp 0x2400) = [0x31, 0x00, 0x24] ∧ encode (.mov .m (.reg .a)) = [0x77] ∧
    encode (.push .psw) = [0xF5] ∧ encode (.cpe 0x0200) = [0xEC, 0x00, 0x02] ∧ encode (.rst 7) = [0xFF] ∧
    encode (.undefNop .xED) = [0xED] := by decide

/-- The table's numbering of bits: the first byte in bits 7 to 0, the second in bits 15 to 8. -/
theorem test_table_words :
    decodeTableWord 24 0x3E00C3 = some (.jmp 0x3E00) ∧ decodeTableWord 16 0x03C6 = some (.adi 0x03) ∧
    decodeTableWord 8 0x76 = some .hlt ∧ decodeTableWord 8 0xC3 = some (.jmp 0x0000) := by decide

/-- `withFetchWord` puts a word where the first step after reset fetches it. -/
theorem test_with_fetch_word :
    stepped (fun t => (t.pc, t.a)) (State.reset.withFetchWord 24 0x3E00C3) = some (0x3E00, 0x00) ∧
    stepped (fun t => (t.pc, t.a)) (State.reset.withFetchWord 16 0x053E) = some (0x0002, 0x05) := by decide

/-! ## One step: family 41 -/

/-- V2 (R130). -/
theorem test_V2_nop_wraps_pc : after (fun t => (t.flags, t.pc))
    ({ start with pc := 0xFFFF }) [] [0x00]
    = some (szapc 0b00000, 0x0000) := by decide

/-- V4 (R131). -/
theorem test_V4_stc_keeps_the_rest : after (fun t => (t.flags, t.pc))
    ({ start with flags := szapc 0b11111 }) [] [0x37]
    = some (szapc 0b11111, 0x0101) := by decide

/-- V5 (R132). -/
theorem test_V5_cmc : after (fun t => (t.flags, t.pc))
    ({ start with flags := szapc 0b00001 }) [] [0x3F]
    = some (szapc 0b00000, 0x0101) := by decide

/-- V9 (R133). -/
theorem test_V9_inr_keeps_carry : after (fun t => (t.flags, t.a, t.pc))
    ({ start with flags := szapc 0b00001, a := 0xFF }) [] [0x3C]
    = some (szapc 0b01111, 0x00, 0x0101) := by decide

/-- V13 (R134). -/
theorem test_V13_inr_its_own_opcode : after (fun t => (t.flags, t.pc, t.read8 0x0100))
    ({ start with h := 0x01, l := 0x00 }) [] [0x34]
    = some (szapc 0b00010, 0x0101, 0x35) := by decide

/-- V15 (R135). -/
theorem test_V15_dcr : after (fun t => (t.flags, t.d, t.pc))
    ({ start with d := 0x00 }) [] [0x15]
    = some (szapc 0b10110, 0xFF, 0x0101) := by decide

/-- V18 (R136). -/
theorem test_V18_dcr_m : after (fun t => (t.flags, t.pc, t.read8 0x2000))
    ({ start with h := 0x20, l := 0x00 }) [(0x2000, 0x01)] [0x35]
    = some (szapc 0b01010, 0x0101, 0x00) := by decide

/-- V21 (R137). -/
theorem test_V21_cma_keeps_flags : after (fun t => (t.flags, t.a, t.pc))
    ({ start with flags := szapc 0b11111, a := 0x00 }) [] [0x2F]
    = some (szapc 0b11111, 0xFF, 0x0101) := by decide

/-- V22 (R138). -/
theorem test_V22_daa_of_the_source : after (fun t => (t.flags, t.a, t.pc))
    ({ start with a := 0x9A }) [] [0x27]
    = some (szapc 0b01111, 0x00, 0x0101) := by decide

/-- V29 (R138). -/
theorem test_V29_daa_keeps_carry : after (fun t => (t.flags, t.a, t.pc))
    ({ start with flags := szapc 0b00101, a := 0x32 }) [] [0x27]
    = some (szapc 0b10001, 0x98, 0x0101) := by decide

/-! ## One step: family 42 -/

/-- V35 (R161). -/
theorem test_V35_mov_h_m_by_old_hl : after (fun t => (t.flags, t.h, t.pc))
    ({ start with h := 0x20, l := 0x00 }) [(0x2000, 0x5A)] [0x66]
    = some (szapc 0b00000, 0x5A, 0x0101) := by decide

/-- V39 (R162). -/
theorem test_V39_mov_m_h : after (fun t => (t.flags, t.pc, t.read8 0x2034))
    ({ start with h := 0x20, l := 0x34 }) [] [0x74]
    = some (szapc 0b00000, 0x0101, 0x20) := by decide

/-- V41 (R164). -/
theorem test_V41_stax : after (fun t => (t.flags, t.pc, t.read8 0x3000))
    ({ start with b := 0x30, c := 0x00, a := 0x99 }) [] [0x02]
    = some (szapc 0b00000, 0x0101, 0x99) := by decide

/-- V44 (R167). -/
theorem test_V44_ldax : after (fun t => (t.flags, t.a, t.pc))
    ({ start with d := 0x30, e := 0x01 }) [(0x3001, 0x42)] [0x1A]
    = some (szapc 0b00000, 0x42, 0x0101) := by decide

/-! ## One step: family 43 -/

/-- V45 (R180). -/
theorem test_V45_add_of_the_source : after (fun t => (t.flags, t.a, t.pc))
    ({ start with a := 0x0F, b := 0x01 }) [] [0x80]
    = some (szapc 0b00100, 0x10, 0x0101) := by decide

/-- V49 (R181). -/
theorem test_V49_add_m : after (fun t => (t.flags, t.a, t.pc))
    ({ start with a := 0x14, h := 0x20, l := 0x00 }) [(0x2000, 0x42)] [0x86]
    = some (szapc 0b00010, 0x56, 0x0101) := by decide

/-- V52 (R182). -/
theorem test_V52_adc_carry_in : after (fun t => (t.flags, t.a, t.pc))
    ({ start with flags := szapc 0b00001, a := 0xFF, e := 0x00 }) [] [0x8B]
    = some (szapc 0b01111, 0x00, 0x0101) := by decide

/-- V56 (R184). -/
theorem test_V56_sub : after (fun t => (t.flags, t.a, t.pc))
    ({ start with a := 0x00, b := 0x01 }) [] [0x90]
    = some (szapc 0b10111, 0xFF, 0x0101) := by decide

/-- V61 (R186). -/
theorem test_V61_sbb_full_borrow : after (fun t => (t.flags, t.pc))
    ({ start with flags := szapc 0b00001, a := 0x00, b := 0xFF }) [] [0x98]
    = some (szapc 0b01111, 0x0101) := by decide

/-- V66 (R188). -/
theorem test_V66_ana_clears_ac : after (fun t => (t.flags, t.a, t.pc))
    ({ start with flags := szapc 0b00101, a := 0xFC, c := 0x0F }) [] [0xA1]
    = some (szapc 0b00010, 0x0C, 0x0101) := by decide

/-- V70 (R190). -/
theorem test_V70_xra_a : after (fun t => (t.flags, t.a, t.pc))
    ({ start with flags := szapc 0b11111, a := 0xC3 }) [] [0xAF]
    = some (szapc 0b01010, 0x00, 0x0101) := by decide

/-- V74 (R193). -/
theorem test_V74_ora_m : after (fun t => (t.flags, t.a, t.pc))
    ({ start with a := 0x00, h := 0x20, l := 0x00 }) [(0x2000, 0x80)] [0xB6]
    = some (szapc 0b10000, 0x80, 0x0101) := by decide

/-- V77 (R194). -/
theorem test_V77_cmp_less : after (fun t => (t.flags, t.pc))
    ({ start with a := 0x05, e := 0x0A }) [] [0xBB]
    = some (szapc 0b10101, 0x0101) := by decide

/-- V81 (R196). -/
theorem test_V81_rlc : after (fun t => (t.flags, t.a, t.pc))
    ({ start with flags := szapc 0b00001, a := 0x01 }) [] [0x07]
    = some (szapc 0b00000, 0x02, 0x0101) := by decide

/-- V83 (R197). -/
theorem test_V83_rrc : after (fun t => (t.flags, t.a, t.pc))
    ({ start with a := 0x01 }) [] [0x0F]
    = some (szapc 0b00001, 0x80, 0x0101) := by decide

/-- V84 (R198). -/
theorem test_V84_ral : after (fun t => (t.flags, t.a, t.pc))
    ({ start with a := 0xB5 }) [] [0x17]
    = some (szapc 0b00001, 0x6A, 0x0101) := by decide

/-- V87 (R199). -/
theorem test_V87_rar : after (fun t => (t.flags, t.a, t.pc))
    ({ start with flags := szapc 0b11110, a := 0x01 }) [] [0x1F]
    = some (szapc 0b11111, 0x00, 0x0101) := by decide

/-! ## One step: family 44 -/

/-- V88 (R220). -/
theorem test_V88_push_of_the_source : after (fun t => (t.flags, t.sp, t.pc, t.read8 0x1FFF, t.read8 0x1FFE))
    ({ start with b := 0x12, c := 0x34, sp := 0x2000 }) [] [0xC5]
    = some (szapc 0b00000, 0x1FFE, 0x0101, 0x12, 0x34) := by decide

/-- V93 (R223). -/
theorem test_V93_push_psw : after (fun t => (t.flags, t.sp, t.pc, t.read8 0x1FFF, t.read8 0x1FFE))
    ({ start with flags := szapc 0b01011, a := 0x1F, sp := 0x2000 }) [] [0xF5]
    = some (szapc 0b01011, 0x1FFE, 0x0101, 0x1F, 0x47) := by decide

/-- V97 (R224). -/
theorem test_V97_pop_wraps : after (fun t => (t.flags, t.b, t.c, t.sp, t.pc))
    ({ start with sp := 0xFFFF }) [(0xFFFF, 0xAA), (0x0000, 0xBB)] [0xC1]
    = some (szapc 0b00000, 0xBB, 0xAA, 0x0001, 0x0101) := by decide

/-- V101 (R227). -/
theorem test_V101_pop_psw_ignores_three_bits : after (fun t => (t.flags, t.a, t.sp, t.pc))
    ({ start with sp := 0x2C00 }) [(0x2C00, 0xFF), (0x2C01, 0x01)] [0xF1]
    = some (szapc 0b11111, 0x01, 0x2C02, 0x0101) := by decide

/-- V105 (R229). -/
theorem test_V105_dad_sets_no_zero_flag : after (fun t => (t.flags, t.h, t.l, t.pc))
    ({ start with flags := szapc 0b10000, h := 0xFF, l := 0xFF, d := 0x00, e := 0x01 }) [] [0x19]
    = some (szapc 0b10001, 0x00, 0x00, 0x0101) := by decide

/-- V108 (R231). -/
theorem test_V108_dad_sp : after (fun t => (t.flags, t.h, t.l, t.pc))
    ({ start with h := 0x00, l := 0x00, sp := 0x1FFE }) [] [0x39]
    = some (szapc 0b00000, 0x1F, 0xFE, 0x0101) := by decide

/-- V110 (R233). -/
theorem test_V110_inx : after (fun t => (t.flags, t.d, t.e, t.pc))
    ({ start with d := 0x38, e := 0xFF }) [] [0x13]
    = some (szapc 0b00000, 0x39, 0x00, 0x0101) := by decide

/-- V112 (R235). -/
theorem test_V112_inx_sp_wraps : after (fun t => (t.flags, t.sp, t.pc))
    ({ start with sp := 0xFFFF }) [] [0x33]
    = some (szapc 0b00000, 0x0000, 0x0101) := by decide

/-- V114 (R237). -/
theorem test_V114_dcx : after (fun t => (t.flags, t.d, t.e, t.pc))
    ({ start with d := 0x00, e := 0x00 }) [] [0x1B]
    = some (szapc 0b00000, 0xFF, 0xFF, 0x0101) := by decide

/-- V116 (R239). -/
theorem test_V116_dcx_sp_wraps : after (fun t => (t.flags, t.sp, t.pc))
    ({ start with sp := 0x0000 }) [] [0x3B]
    = some (szapc 0b00000, 0xFFFF, 0x0101) := by decide

/-- V117 (R240). -/
theorem test_V117_xchg : after (fun t => (t.flags, t.d, t.e, t.h, t.l, t.pc))
    ({ start with h := 0x00, l := 0xFF, d := 0x33, e := 0x55 }) [] [0xEB]
    = some (szapc 0b00000, 0x00, 0xFF, 0x33, 0x55, 0x0101) := by decide

/-- V119 (R241). -/
theorem test_V119_xthl_wraps : after (fun t => (t.flags, t.h, t.l, t.pc, t.read8 0xFFFF, t.read8 0x0000))
    ({ start with sp := 0xFFFF, h := 0x11, l := 0x22 }) [(0xFFFF, 0x33), (0x0000, 0x44)] [0xE3]
    = some (szapc 0b00000, 0x44, 0x33, 0x0101, 0x22, 0x11) := by decide

/-- V120 (R242). -/
theorem test_V120_sphl : after (fun t => (t.flags, t.sp, t.pc))
    ({ start with h := 0x50, l := 0x6C }) [] [0xF9]
    = some (szapc 0b00000, 0x506C, 0x0101) := by decide

/-! ## One step: family 45 -/

/-- V122 (R260). -/
theorem test_V122_lxi_across_the_top : after (fun t => (t.flags, t.b, t.c, t.pc))
    ({ start with pc := 0xFFFE }) [] [0x01, 0x34, 0x12]
    = some (szapc 0b00000, 0x12, 0x34, 0x0001) := by decide

/-- V125 (R263). -/
theorem test_V125_lxi_sp : after (fun t => (t.flags, t.sp, t.pc))
    start [] [0x31, 0x00, 0x24]
    = some (szapc 0b00000, 0x2400, 0x0103) := by decide

/-- V128 (R265). -/
theorem test_V128_mvi_m : after (fun t => (t.flags, t.pc, t.read8 0x2000))
    ({ start with h := 0x20, l := 0x00 }) [] [0x36, 0xFF]
    = some (szapc 0b00000, 0x0102, 0xFF) := by decide

/-- V130 (R266). -/
theorem test_V130_adi_of_the_source : after (fun t => (t.flags, t.a, t.pc))
    ({ start with a := 0x05 }) [] [0xC6, 0x03]
    = some (szapc 0b00000, 0x08, 0x0102) := by decide

/-- V132 (R267). -/
theorem test_V132_aci : after (fun t => (t.flags, t.a, t.pc))
    ({ start with flags := szapc 0b00001, a := 0x56 }) [] [0xCE, 0xBE]
    = some (szapc 0b00101, 0x15, 0x0102) := by decide

/-- V134 (R268). -/
theorem test_V134_sui : after (fun t => (t.flags, t.a, t.pc))
    ({ start with a := 0x00 }) [] [0xD6, 0x01]
    = some (szapc 0b10111, 0xFF, 0x0102) := by decide

/-- V137 (R269). -/
theorem test_V137_sbi : after (fun t => (t.flags, t.pc))
    ({ start with flags := szapc 0b00001, a := 0x00 }) [] [0xDE, 0xFF]
    = some (szapc 0b01111, 0x0102) := by decide

/-- V138 (R270). -/
theorem test_V138_ani : after (fun t => (t.flags, t.a, t.pc))
    ({ start with flags := szapc 0b00101, a := 0x3A }) [] [0xE6, 0x0F]
    = some (szapc 0b00010, 0x0A, 0x0102) := by decide

/-- V139 (R271). -/
theorem test_V139_xri : after (fun t => (t.flags, t.a, t.pc))
    ({ start with a := 0x3B }) [] [0xEE, 0x81]
    = some (szapc 0b10000, 0xBA, 0x0102) := by decide

/-- V140 (R272). -/
theorem test_V140_ori : after (fun t => (t.flags, t.a, t.pc))
    ({ start with a := 0xB5 }) [] [0xF6, 0x0F]
    = some (szapc 0b10000, 0xBF, 0x0102) := by decide

/-- V143 (R273). -/
theorem test_V143_cpi_less : after (fun t => (t.flags, t.pc))
    ({ start with a := 0x4A }) [] [0xFE, 0x4B]
    = some (szapc 0b10111, 0x0102) := by decide

/-- V144 (R274). -/
theorem test_V144_sta : after (fun t => (t.flags, t.pc, t.read8 0x05B3))
    ({ start with a := 0x0F }) [] [0x32, 0xB3, 0x05]
    = some (szapc 0b00000, 0x0103, 0x0F) := by decide

/-- V146 (R275). -/
theorem test_V146_lda : after (fun t => (t.flags, t.a, t.pc))
    start [(0x0300, 0x77)] [0x3A, 0x00, 0x03]
    = some (szapc 0b00000, 0x77, 0x0103) := by decide

/-- V148 (R276). -/
theorem test_V148_shld_wraps : after (fun t => (t.flags, t.pc, t.read8 0xFFFF, t.read8 0x0000))
    ({ start with h := 0xAE, l := 0x29 }) [] [0x22, 0xFF, 0xFF]
    = some (szapc 0b00000, 0x0103, 0x29, 0xAE) := by decide

/-- V150 (R277). -/
theorem test_V150_lhld_wraps : after (fun t => (t.flags, t.h, t.l, t.pc))
    start [(0xFFFF, 0x11), (0x0000, 0x22)] [0x2A, 0xFF, 0xFF]
    = some (szapc 0b00000, 0x22, 0x11, 0x0103) := by decide

/-! ## One step: family 46 -/

/-- V151 (R300). -/
theorem test_V151_jmp : after (fun t => (t.flags, t.pc))
    ({ start with pc := 0x0000 }) [] [0xC3, 0x00, 0x3E]
    = some (szapc 0b00000, 0x3E00) := by decide

/-- V153 (R301). -/
theorem test_V153_pchl : after (fun t => (t.flags, t.pc))
    ({ start with h := 0x41, l := 0x3E }) [] [0xE9]
    = some (szapc 0b00000, 0x413E) := by decide

/-- V155 (R302). -/
theorem test_V155_jnz_falls_through : after (fun t => (t.flags, t.pc))
    ({ start with flags := szapc 0b01000 }) [] [0xC2, 0x50, 0x01]
    = some (szapc 0b01000, 0x0103) := by decide

/-- V157 (R303). -/
theorem test_V157_jz_jumps : after (fun t => (t.flags, t.pc))
    ({ start with flags := szapc 0b01000 }) [] [0xCA, 0x50, 0x01]
    = some (szapc 0b01000, 0x0150) := by decide

/-- V158 (R304). -/
theorem test_V158_jnc_jumps : after (fun t => (t.flags, t.pc))
    start [] [0xD2, 0x50, 0x01]
    = some (szapc 0b00000, 0x0150) := by decide

/-- V161 (R305). -/
theorem test_V161_jc_jumps : after (fun t => (t.flags, t.pc))
    ({ start with flags := szapc 0b00001 }) [] [0xDA, 0x50, 0x01]
    = some (szapc 0b00001, 0x0150) := by decide

/-- V163 (R306). -/
theorem test_V163_jpo_falls_through : after (fun t => (t.flags, t.pc))
    ({ start with flags := szapc 0b00010 }) [] [0xE2, 0x50, 0x01]
    = some (szapc 0b00010, 0x0103) := by decide

/-- V165 (R307). -/
theorem test_V165_jpe_jumps : after (fun t => (t.flags, t.pc))
    ({ start with flags := szapc 0b00010 }) [] [0xEA, 0x50, 0x01]
    = some (szapc 0b00010, 0x0150) := by decide

/-- V166 (R308). -/
theorem test_V166_jp_jumps : after (fun t => (t.flags, t.pc))
    start [] [0xF2, 0x50, 0x01]
    = some (szapc 0b00000, 0x0150) := by decide

/-- V169 (R309). -/
theorem test_V169_jm_jumps : after (fun t => (t.flags, t.pc))
    ({ start with flags := szapc 0b10000 }) [] [0xFA, 0x50, 0x01]
    = some (szapc 0b10000, 0x0150) := by decide

/-- V170 (R310). -/
theorem test_V170_call : after (fun t => (t.flags, t.sp, t.pc, t.read8 0x1FFF, t.read8 0x1FFE))
    ({ start with sp := 0x2000 }) [] [0xCD, 0x00, 0x02]
    = some (szapc 0b00000, 0x1FFE, 0x0200, 0x01, 0x03) := by decide

/-- V171 (R310). -/
theorem test_V171_call_wraps : after (fun t => (t.flags, t.sp, t.pc, t.read8 0x1FFF, t.read8 0x1FFE))
    ({ start with pc := 0xFFFE, sp := 0x2000 }) [] [0xCD, 0x00, 0x02]
    = some (szapc 0b00000, 0x1FFE, 0x0200, 0x00, 0x01) := by decide

/-- V174 (R311). -/
theorem test_V174_cnz_falls_through : after (fun t => (t.flags, t.pc))
    ({ start with flags := szapc 0b01000, sp := 0x2000 }) [] [0xC4, 0x00, 0x02]
    = some (szapc 0b01000, 0x0103) := by decide

/-- V176 (R312). -/
theorem test_V176_cz_calls : after (fun t => (t.flags, t.sp, t.pc, t.read8 0x1FFF, t.read8 0x1FFE))
    ({ start with flags := szapc 0b01000, sp := 0x2000 }) [] [0xCC, 0x00, 0x02]
    = some (szapc 0b01000, 0x1FFE, 0x0200, 0x01, 0x03) := by decide

/-- V177 (R313). -/
theorem test_V177_cnc_calls : after (fun t => (t.flags, t.sp, t.pc, t.read8 0x1FFF, t.read8 0x1FFE))
    ({ start with sp := 0x2000 }) [] [0xD4, 0x00, 0x02]
    = some (szapc 0b00000, 0x1FFE, 0x0200, 0x01, 0x03) := by decide

/-- V180 (R314). -/
theorem test_V180_cc_calls : after (fun t => (t.flags, t.sp, t.pc, t.read8 0x1FFF, t.read8 0x1FFE))
    ({ start with flags := szapc 0b00001, sp := 0x2000 }) [] [0xDC, 0x00, 0x02]
    = some (szapc 0b00001, 0x1FFE, 0x0200, 0x01, 0x03) := by decide

/-- V182 (R315). -/
theorem test_V182_cpo_falls_through : after (fun t => (t.flags, t.pc))
    ({ start with flags := szapc 0b00010, sp := 0x2000 }) [] [0xE4, 0x00, 0x02]
    = some (szapc 0b00010, 0x0103) := by decide

/-- V184 (R316). -/
theorem test_V184_cpe_calls : after (fun t => (t.flags, t.sp, t.pc, t.read8 0x1FFF, t.read8 0x1FFE))
    ({ start with flags := szapc 0b00010, sp := 0x2000 }) [] [0xEC, 0x00, 0x02]
    = some (szapc 0b00010, 0x1FFE, 0x0200, 0x01, 0x03) := by decide

/-- V185 (R317). -/
theorem test_V185_cp_calls : after (fun t => (t.flags, t.sp, t.pc, t.read8 0x1FFF, t.read8 0x1FFE))
    ({ start with sp := 0x2000 }) [] [0xF4, 0x00, 0x02]
    = some (szapc 0b00000, 0x1FFE, 0x0200, 0x01, 0x03) := by decide

/-- V188 (R318). -/
theorem test_V188_cm_calls : after (fun t => (t.flags, t.sp, t.pc, t.read8 0x1FFF, t.read8 0x1FFE))
    ({ start with flags := szapc 0b10000, sp := 0x2000 }) [] [0xFC, 0x00, 0x02]
    = some (szapc 0b10000, 0x1FFE, 0x0200, 0x01, 0x03) := by decide

/-- V189 (R319). -/
theorem test_V189_ret : after (fun t => (t.flags, t.sp, t.pc))
    ({ start with sp := 0x1FFE }) [(0x1FFE, 0x03), (0x1FFF, 0x01)] [0xC9]
    = some (szapc 0b00000, 0x2000, 0x0103) := by decide

/-- V190 (R320). -/
theorem test_V190_rnz_returns : after (fun t => (t.flags, t.sp, t.pc))
    ({ start with sp := 0x1FFE }) [(0x1FFE, 0x03), (0x1FFF, 0x02)] [0xC0]
    = some (szapc 0b00000, 0x2000, 0x0203) := by decide

/-- V193 (R321). -/
theorem test_V193_rz_returns : after (fun t => (t.flags, t.sp, t.pc))
    ({ start with flags := szapc 0b01000, sp := 0x1FFE }) [(0x1FFE, 0x03), (0x1FFF, 0x02)] [0xC8]
    = some (szapc 0b01000, 0x2000, 0x0203) := by decide

/-- V194 (R322). -/
theorem test_V194_rnc_returns : after (fun t => (t.flags, t.sp, t.pc))
    ({ start with sp := 0x1FFE }) [(0x1FFE, 0x03), (0x1FFF, 0x02)] [0xD0]
    = some (szapc 0b00000, 0x2000, 0x0203) := by decide

/-- V196 (R323). -/
theorem test_V196_rc_falls_through : after (fun t => (t.flags, t.pc))
    ({ start with sp := 0x1FFE }) [(0x1FFE, 0x03), (0x1FFF, 0x02)] [0xD8]
    = some (szapc 0b00000, 0x0101) := by decide

/-- V198 (R324). -/
theorem test_V198_rpo_returns : after (fun t => (t.flags, t.sp, t.pc))
    ({ start with sp := 0x1FFE }) [(0x1FFE, 0x03), (0x1FFF, 0x02)] [0xE0]
    = some (szapc 0b00000, 0x2000, 0x0203) := by decide

/-- V201 (R325). -/
theorem test_V201_rpe_returns : after (fun t => (t.flags, t.sp, t.pc))
    ({ start with flags := szapc 0b00010, sp := 0x1FFE }) [(0x1FFE, 0x03), (0x1FFF, 0x02)] [0xE8]
    = some (szapc 0b00010, 0x2000, 0x0203) := by decide

/-- V202 (R326). -/
theorem test_V202_rp_returns : after (fun t => (t.flags, t.sp, t.pc))
    ({ start with sp := 0x1FFE }) [(0x1FFE, 0x03), (0x1FFF, 0x02)] [0xF0]
    = some (szapc 0b00000, 0x2000, 0x0203) := by decide

/-- V205 (R327). -/
theorem test_V205_rm_returns : after (fun t => (t.flags, t.sp, t.pc))
    ({ start with flags := szapc 0b10000, sp := 0x1FFE }) [(0x1FFE, 0x03), (0x1FFF, 0x02)] [0xF8]
    = some (szapc 0b10000, 0x2000, 0x0203) := by decide

/-- V208 (R328). -/
theorem test_V208_rst_2 : after (fun t => (t.flags, t.sp, t.pc, t.read8 0x1FFF, t.read8 0x1FFE))
    ({ start with pc := 0x0150, sp := 0x2000 }) [] [0xD7]
    = some (szapc 0b00000, 0x1FFE, 0x0010, 0x01, 0x51) := by decide

/-- V214 (R328). -/
theorem test_V214_rst_at_the_top : after (fun t => (t.flags, t.sp, t.pc, t.read8 0xFFFF, t.read8 0xFFFE))
    ({ start with pc := 0xFFFF, sp := 0x0000, inte := true }) [] [0xFF]
    = some (szapc 0b00000, 0xFFFE, 0x0038, 0x00, 0x00) := by decide

/-! ## One step: family 47 -/

/-- V215 (R350). -/
theorem test_V215_ei : after (fun t => (t.flags, t.inte, t.pc))
    start [] [0xFB]
    = some (szapc 0b00000, true, 0x0101) := by decide

/-- V217 (R351). -/
theorem test_V217_di : after (fun t => (t.flags, t.inte, t.pc))
    ({ start with inte := true }) [] [0xF3]
    = some (szapc 0b00000, false, 0x0101) := by decide

/-- V219 (R352). -/
theorem test_V219_in_stub : after (fun t => (t.flags, t.pc))
    ({ start with a := 0x55 }) [] [0xDB, 0x01]
    = some (szapc 0b00000, 0x0102) := by decide

/-- V220 (R353). -/
theorem test_V220_out_stub : after (fun t => (t.flags, t.pc))
    ({ start with a := 0x55 }) [] [0xD3, 0x10]
    = some (szapc 0b00000, 0x0102) := by decide

/-- V223 (R354). -/
theorem test_V223_hlt_parks : after (fun t => (t.flags, t.pc))
    ({ start with pc := 0xFFFF, flags := szapc 0b11111, inte := true }) [] [0x76]
    = some (szapc 0b11111, 0xFFFF) := by decide

/-! ## One step: family 48 -/

/-- V224 (R370). -/
theorem test_V224_undefined_08 : after (fun t => (t.flags, t.pc))
    ({ start with flags := szapc 0b11111, a := 0x11, sp := 0x2000 }) [] [0x08, 0x00, 0x02]
    = some (szapc 0b11111, 0x0101) := by decide

/-- V233 (R371). -/
theorem test_V233_undefined_fd : after (fun t => (t.flags, t.pc))
    ({ start with sp := 0x2000 }) [] [0xFD, 0x00, 0x02]
    = some (szapc 0b00000, 0x0101) := by decide

/-- V234 (R372). -/
theorem test_V234_undefined_d9 : after (fun t => (t.flags, t.sp, t.pc))
    ({ start with sp := 0x1FFE }) [(0x1FFE, 0x03), (0x1FFF, 0x01)] [0xD9]
    = some (szapc 0b00000, 0x2000, 0x0103) := by decide

/-- V235 (R373). -/
theorem test_V235_undefined_cb : after (fun t => (t.flags, t.pc))
    ({ start with pc := 0x0000 }) [] [0xCB, 0x00, 0x3E]
    = some (szapc 0b00000, 0x3E00) := by decide

/-! ## The wired ports -/

theorem test_out_wired :
    after (fun t => (t.portWrites, t.a, t.pc)) { start with seam := .wired, a := 0x55 } [] [0xD3, 0x10]
    = some ([(0x10, 0x55)], 0x55, 0x0102) := by decide

/-! ## The bus operations of a step, from the last column of the vectors -/

/-- V118. -/
theorem test_V118_bus_operations :
    stepOps (place (poke { start with sp := 0x10AD, h := 0x0B, l := 0x3C } [(0x10AD, 0xF0), (0x10AE, 0x0D)]) [0xE3])
    = [.rd 0x0100, .rd 0x10AD, .rd 0x10AE, .wr 0x10AD 0x3C, .wr 0x10AE 0x0B] := by decide

/-- V170 and V174. -/
theorem test_V170_bus_operations :
    stepOps (place { start with sp := 0x2000 } [0xCD, 0x00, 0x02])
    = [.rd 0x0100, .rd 0x0101, .rd 0x0102, .wr 0x1FFF 0x01, .wr 0x1FFE 0x03] ∧
    stepOps (place { start with sp := 0x2000, flags := szapc 0b01000 } [0xC4, 0x00, 0x02])
    = [.rd 0x0100, .rd 0x0101, .rd 0x0102] := by decide

/-! ## Witnesses: what the hypotheses of the obligations ask for, together -/

/-- A state with ADI 3 at PC. -/
def atAdi : State := place start [0xC6, 0x03]

theorem witness_StepRunsTheDecodedInstruction :
    decode [atAdi.read8 atAdi.pc, atAdi.read8 (atAdi.pc + 1), atAdi.read8 (atAdi.pc + 2)]
    = .ok (.adi 0x03) [0x00] := by decide

theorem witness_EveryStepHasANextState : (Instr.mov .m (.reg .a)).wf = true := by decide

theorem witness_DecodeOfEncodeIsTheInstruction : (Instr.lxi .sp 0xFFFF).wf = true := by decide

theorem witness_EncodeOfDecodeIsTheBytes : decode [0xFF, 0xFF] = .ok (.rst 7) [0xFF] := by decide

theorem witness_LengthIsDecidedByTheOpcodeByte_decodes :
    decode [0xC3, 0xFF, 0xFF, 0x76] = .ok (.jmp 0xFFFF) [0x76] := by decide

theorem witness_LengthIsDecidedByTheOpcodeByte_rejects :
    (∃ why, decode [0xC3, 0xFF] = .rejected why) ∧ [0xFF].length + 1 < opcodeLength 0xC3 :=
  ⟨⟨_, rfl⟩, by decide⟩

theorem witness_ResetMeetsTheInvariant : Memory.wf [(0, 0x76), (65535, 0xFF)] = true := by decide

theorem witness_EveryStepKeepsTheInvariant : ∃ t, atAdi.Inv ∧ step atAdi = .next t :=
  ⟨_, by unfold State.Inv; decide, rfl⟩

theorem witness_CanonicalMemoriesAreEqual : ∃ m n : Memory, m.wf = true ∧ n.wf = true ∧
    (∀ addr : Word, m.readAt addr.toNat = n.readAt addr.toNat) ∧ m ≠ [] :=
  ⟨[(65535, 0x01)], [(65535, 0x01)], by decide, by decide, fun _ => rfl, by decide⟩

theorem witness_UndefinedBytesRunAsNopAndRet_nop :
    (place start [0xFD]).read8 start.pc ∈ [0x08, 0x10, 0x18, 0x20, 0x28, 0x30, 0x38, 0xDD, 0xED, 0xFD] := by decide

theorem witness_UndefinedBytesRunAsNopAndRet_ret : (place start [0xD9]).read8 start.pc = 0xD9 := by decide

/-- 99 + 99, the largest operands. -/
theorem witness_BcdAdditionIsDecimal :
    IsBcd ({ start with a := 0x99, b := 0x99 } : State).a ∧
    IsBcd (({ start with a := 0x99, b := 0x99 } : State).operand (.reg .b)) := by
  unfold IsBcd
  decide

theorem witness_MovCopiesTheOperand :
    (Instr.mov (.reg .h) .m).wf = true ∧ (Instr.mov .m (.reg .h)).wf = true := by decide

theorem witness_PushThenPopRestoresThePair : ∃ t w : State, exec (.push .psw) start = .next t ∧ w.sp = t.sp ∧
    (∀ addr, w.read8 addr = t.read8 addr) ∧ w.a ≠ t.a :=
  ⟨start.push16 start.psw, { start.push16 start.psw with a := 0x01 }, rfl, rfl, fun _ => rfl, by decide⟩

theorem witness_PairIncrementAndDecrement_and_LoadImmediate : Pair.bc ≠ .sp := by decide

/-- Flags under which each conditional jump, call and return goes, and flags under which it does not. -/
theorem witness_ConditionalJumps_ConditionalCalls_Returns :
    (∀ k ∈ [Cond.nz, .nc, .po, .p], condHolds k (szapc 0b00000) = true ∧ condHolds k (szapc 0b11111) = false) ∧
    ∀ k ∈ [Cond.z, .c, .pe, .m], condHolds k (szapc 0b00000) = false ∧ condHolds k (szapc 0b11111) = true := by
  decide

theorem witness_CallThenReturnComesBack : ∃ t w : State, exec (.rst 7) start = .next t ∧
    ((∃ a16, Instr.rst 7 = .call a16) ∨ ∃ n, Instr.rst 7 = .rst n) ∧ w.sp = t.sp ∧
    (∀ addr, w.read8 addr = t.read8 addr) ∧ w.b ≠ t.b :=
  ⟨start.callTo 0x0038, { start.callTo 0x0038 with b := 0x01 }, rfl, .inr ⟨7, rfl⟩, rfl, fun _ => rfl, by decide⟩

theorem witness_CallThenReturnComesBack_call :
    (∃ a16, Instr.call 0x0200 = .call a16) ∧ exec (.call 0x0200) start = .next (start.callTo 0x0200) :=
  ⟨⟨_, rfl⟩, rfl⟩

theorem witness_PortInstructions :
    start.seam = .stub ∧ ({ start with seam := .wired } : State).seam = .wired := by decide

theorem witness_HaltParks : State.Parked (place start [0x76]) := by
  unfold State.Parked
  decide

theorem witness_OnlyEiAndDiTouchInte : ∃ t u v : State,
    exec .ei start = .next t ∧ exec .di start = .next u ∧ step atAdi = .next v :=
  ⟨_, _, _, rfl, rfl, rfl⟩

/-- One instruction for every row of the flag table, each with a next state. -/
theorem witness_FlagTable :
    (flagEffect (.mov .m (.reg .a)) = .none ∧ ∃ t, exec (.mov .m (.reg .a)) start = .next t) ∧
    (flagEffect (.dad .sp) = .carryOnly ∧ ∃ t, exec (.dad .sp) start = .next t) ∧
    (flagEffect (.inr .m) = .allButCarry ∧ ∃ t, exec (.inr .m) start = .next t) ∧
    (flagEffect (.ani 0xFF) = .logic ∧ ∃ t, exec (.ani 0xFF) start = .next t) ∧
    (∃ t, exec .stc start = .next t) ∧ ∃ t, exec .cmc start = .next t :=
  ⟨⟨rfl, _, rfl⟩, ⟨rfl, _, rfl⟩, ⟨rfl, _, rfl⟩, ⟨rfl, _, rfl⟩, ⟨_, rfl⟩, _, rfl⟩

theorem witness_OnlyTheListedInstructionsMovePcAndSp : ∃ t, step atAdi = .next t ∧
    decode [atAdi.read8 atAdi.pc, atAdi.read8 (atAdi.pc + 1), atAdi.read8 (atAdi.pc + 2)]
      = .ok (.adi 0x03) [0x00] ∧ movesPc (.adi 0x03) = false ∧ movesSp (.adi 0x03) = false :=
  ⟨_, rfl, by decide, rfl, rfl⟩

theorem witness_OnlyInAndOutTouchThePorts : ∃ t u : State, step atAdi = .next t ∧ atAdi.seam = .stub ∧
    exec .nop { start with seam := .wired } = .next u ∧ (∀ port, Instr.nop ≠ .inp port) ∧
    ∀ port, Instr.nop ≠ .outp port :=
  ⟨_, _, rfl, rfl, rfl, nofun, nofun⟩

theorem witness_StepWritesAreItsBusWrites : ∃ t u : State,
    exec (.shld 0xFFFF) start = .next t ∧ step atAdi = .next u :=
  ⟨_, _, rfl, rfl⟩

/-- ADI 3 at PC, and a memory that differs elsewhere: the reads of the step. -/
theorem witness_StepDependsOnItsReadsAlone_reads : stepOps atAdi = [.rd 0x0100, .rd 0x0101] := by decide

/-- That memory. -/
def otherMemory : Memory := [(0x0100, 0xC6), (0x0101, 0x03), (0x0200, 0x01)]

/-- The state with that memory. -/
def otherState : State := { atAdi with mem := otherMemory }

theorem witness_StepDependsOnItsReadsAlone_differs : otherMemory ≠ atAdi.mem := by decide

theorem witness_StepDependsOnItsReadsAlone_agrees :
    otherState.read8 0x0100 = atAdi.read8 0x0100 ∧ otherState.read8 0x0101 = atAdi.read8 0x0101 := by decide

theorem witness_StepDependsOnItsReadsAlone : ∃ (t : State) (mem : Memory), step atAdi = .next t ∧
    mem ≠ atAdi.mem ∧ ∀ addr ∈ readAddrs (stepOps atAdi), { atAdi with mem := mem }.read8 addr = atAdi.read8 addr := by
  obtain ⟨t, _, h⟩ := witness_EveryStepKeepsTheInvariant
  refine ⟨t, otherMemory, h, witness_StepDependsOnItsReadsAlone_differs, ?_⟩
  rw [witness_StepDependsOnItsReadsAlone_reads]
  intro addr h
  have ha : addr = 0x0100 ∨ addr = 0x0101 := by simpa [readAddrs] using h
  rcases ha with rfl | rfl
  · exact witness_StepDependsOnItsReadsAlone_agrees.1
  · exact witness_StepDependsOnItsReadsAlone_agrees.2

theorem witness_SelfInverseInstructions : State.reset.Inv := rfl

end Sys2Proof.Tests
end

section
/-! The statements of 10_state.md: the pair views and the state after construction. -/

namespace Sys2Proof.Machine

/-! ## The register pairs as views (R21) -/

theorem State.toNat_bc (s : State) : s.bc.toNat = s.b.toNat * 256 + s.c.toNat := toNat_joinBytes s.b s.c
theorem State.toNat_de (s : State) : s.de.toNat = s.d.toNat * 256 + s.e.toNat := toNat_joinBytes s.d s.e
theorem State.toNat_hl (s : State) : s.hl.toNat = s.h.toNat * 256 + s.l.toNat := toNat_joinBytes s.h s.l

@[simp] theorem State.setPair_bc_b (s : State) (v : Word) : (s.setPair .bc v).b = highByte v := rfl
@[simp] theorem State.setPair_bc_c (s : State) (v : Word) : (s.setPair .bc v).c = lowByte v := rfl
@[simp] theorem State.setPair_de_d (s : State) (v : Word) : (s.setPair .de v).d = highByte v := rfl
@[simp] theorem State.setPair_de_e (s : State) (v : Word) : (s.setPair .de v).e = lowByte v := rfl
@[simp] theorem State.setPair_hl_h (s : State) (v : Word) : (s.setPair .hl v).h = highByte v := rfl
@[simp] theorem State.setPair_hl_l (s : State) (v : Word) : (s.setPair .hl v).l = lowByte v := rfl

/-- What is written to a pair is read back. -/
@[simp] theorem State.pair_setPair_self (s : State) (p : Pair) (v : Word) : (s.setPair p v).pair p = v :=
  (s.setPair_spec p v).1

@[simp] theorem State.bc_setPair_bc (s : State) (v : Word) : (s.setPair .bc v).bc = v := s.pair_setPair_self .bc v
@[simp] theorem State.de_setPair_de (s : State) (v : Word) : (s.setPair .de v).de = v := s.pair_setPair_self .de v
@[simp] theorem State.hl_setPair_hl (s : State) (v : Word) : (s.setPair .hl v).hl = v := s.pair_setPair_self .hl v

/-- Writing a pair changes no general register but its halves. -/
theorem State.setPair_keepsRegs (s : State) (p : Pair) (v : Word) : KeepsRegs (pairRegs p) s (s.setPair p v) := by
  obtain ⟨_, ⟨hregs, _⟩, _⟩ := s.setPair_spec p v
  exact hregs

/-- Settles O13: each pair is `joinBytes` of its halves, and `setPair` writes the two halves alone. -/
theorem pairsAreViews : Obligations.PairsAreViews := by
  unfold Obligations.PairsAreViews
  refine ⟨fun s => ⟨s.toNat_bc, s.toNat_de, s.toNat_hl⟩, fun s v => ?writePair, State.setPair_keepsRegs,
    fun s hi lo => ?writeHalves⟩
  case writePair => simp [toNat_highByte, toNat_lowByte]
  case writeHalves => simp [State.toNat_bc, State.toNat_de, State.toNat_hl]

/-! ## The state after construction (R39) -/

@[simp] theorem State.reg_construct (resetPc : Word) (mem : Memory) (seam : PortSeam) (r : Reg8) :
    (State.construct resetPc mem seam).reg r = 0x00 := by
  cases r <;> rfl

@[simp] theorem State.read8_construct (resetPc : Word) (mem : Memory) (seam : PortSeam) (addr : Word) :
    (State.construct resetPc mem seam).read8 addr = mem.readAt addr.toNat := rfl

theorem joinBytes_zero_zero : joinBytes 0x00 0x00 = 0x0000 := rfl

/-- The packed flags at reset: bit 1 alone is set (R32). -/
theorem Flags.pack_cleared : Flags.cleared.pack = 0x02 := rfl

theorem State.psw_construct (resetPc : Word) (mem : Memory) (seam : PortSeam) :
    (State.construct resetPc mem seam).psw = 0x0002 :=
  congrArg (joinBytes 0x00) Flags.pack_cleared

/-- Settles O8: the fields of `State.construct`, read one by one; the pairs join two zero bytes. -/
theorem constructionZeroesTheState : Obligations.ConstructionZeroesTheState := by
  unfold Obligations.ConstructionZeroesTheState
  intro resetPc mem seam
  exact ⟨_, rfl, State.reg_construct resetPc mem seam,
    rfl, rfl, -- SP, PC
    rfl, rfl, rfl, rfl, rfl, -- S, Z, AC, P, CY
    rfl, -- INTE
    joinBytes_zero_zero, joinBytes_zero_zero, joinBytes_zero_zero, -- BC, DE, HL
    Flags.pack_cleared, State.psw_construct resetPc mem seam, State.read8_construct resetPc mem seam⟩

end Sys2Proof.Machine

end

section
/-! The statement of 20_memory.md: a sequence of writes on the bus, read back. -/

namespace Sys2Proof.Machine

/-- A sequence of bus writes, the first of the list made first (R52). -/
def State.writeList (s : State) (writes : List (Word × Byte)) : State :=
  writes.foldl (fun u w => u.write8 w.1 w.2) s

@[simp] theorem State.writeList_nil (s : State) : s.writeList [] = s := rfl

@[simp] theorem State.writeList_concat (s : State) (writes : List (Word × Byte)) (w : Word × Byte) :
    s.writeList (writes ++ [w]) = (s.writeList writes).write8 w.1 w.2 :=
  List.foldl_concat ..

/-- Read after a sequence of writes (R51). The induction takes the last write off the list: if it is to the
address it is the one found first from the back, else the read passes through it. -/
theorem State.read8_writeList (s : State) (writes : List (Word × Byte)) (addr : Word) :
    (s.writeList writes).read8 addr =
      ((writes.reverse.find? (fun w => w.1 == addr)).map Prod.snd).getD (s.read8 addr) := by
  induction writes using List.reverseRecOn with
  | nil => rfl
  | append_singleton writes w ih =>
    rw [State.writeList_concat, State.read8_write8, List.reverse_concat]
    by_cases hw : w.1 = addr
    · simp [hw]
    · simp [hw, Ne.symm hw, ih]

/-- A sequence of writes changes nothing but memory (R52). -/
theorem State.writeList_frame (s : State) (writes : List (Word × Byte)) :
    { s.writeList writes with mem := s.mem } = s := by
  induction writes using List.reverseRecOn with
  | nil => rfl
  | append_singleton writes w ih => simpa using ih

/-- Settles O11: `State.writeList` is the fold of the statement; its reads and its frame are the two laws above. -/
theorem memoryReadsTheLastWrite : Obligations.MemoryReadsTheLastWrite := by
  unfold Obligations.MemoryReadsTheLastWrite
  intro s writes
  refine ⟨s.writeList writes, rfl, fun addr => ?read, s.writeList_frame writes⟩
  case read =>
    rw [State.read8_writeList]
    cases writes.reverse.find? (fun w => w.1 == addr) with
    | none => rfl
    | some w => rfl

end Sys2Proof.Machine

end

section
/-! The statement of 30_encoding.md R90: what the decoder reads, and that no step refuses. -/

namespace Sys2Proof

/-! ## What the decoder reads -/

/-- An answer of the decoder, by the length of the opcode (R81): the bytes `rest` after the opcode give `length - 1`
operand bytes to an instruction that is well-formed whatever those bytes are. -/
inductive ReadsOperands (rest : List Byte) : Nat → Decoded → Prop
  | none {i : Instr} (hi : i.wf = true) : ReadsOperands rest 1 (.ok i rest)
  | byte {k : Byte → Instr} (hk : ∀ d8, (k d8).wf = true) : ReadsOperands rest 2 (withByte k rest)
  | word {k : Word → Instr} (hk : ∀ d16, (k d16).wf = true) : ReadsOperands rest 3 (withWord k rest)

/-- What is read is well-formed. -/
theorem ReadsOperands.wf {rest after : List Byte} {n : Nat} {i : Instr}
    (h : ReadsOperands rest n (.ok i after)) : i.wf = true := by
  generalize hd : Decoded.ok i after = d at h
  cases h with
  | none hi => cases hd; exact hi
  | byte hk =>
    match rest with
    | [] => cases hd
    | _ :: _ => cases hd; exact hk _
  | word hk =>
    match rest with
    | [] | [_] => cases hd
    | _ :: _ :: _ => cases hd; exact hk _

/-- Where no operand byte is missing, an instruction is read. -/
theorem ReadsOperands.ok {rest : List Byte} {n : Nat} {d : Decoded} (h : ReadsOperands rest n d)
    (hn : n ≤ rest.length + 1) : ∃ i after, d = .ok i after := by
  cases h with
  | none => exact ⟨_, _, rfl⟩
  | byte =>
    match rest with
    | _ :: _ => exact ⟨_, _, rfl⟩
  | word =>
    match rest with
    | _ :: _ :: _ => exact ⟨_, _, rfl⟩

/-! ## The four quadrants of the opcode map (R88) -/

theorem opByte_fields : ∀ op : Byte, opByte (op.extractLsb' 6 2) (op.extractLsb' 3 3) (op.extractLsb' 0 3) = op := by
  decide

/-! The length of an opcode, for each column `z` of the map whose rows are one instruction over an operand code. -/

/-- In column 1 of quadrant 0 the low bit of `y` chooses between LXI, which has operand bytes, and DAD. -/
theorem opcodeLength_lxi_dad : ∀ y : BitVec 3, opcodeLength (opByte 0 y 1#3) = if y.getLsbD 0 then 1 else 3 := by decide

theorem opcodeLength_inx_dcx : ∀ y : BitVec 3, opcodeLength (opByte 0 y 3#3) = 1 := by decide
theorem opcodeLength_inr : ∀ y : BitVec 3, opcodeLength (opByte 0 y 4#3) = 1 := by decide
theorem opcodeLength_dcr : ∀ y : BitVec 3, opcodeLength (opByte 0 y 5#3) = 1 := by decide
theorem opcodeLength_mvi : ∀ y : BitVec 3, opcodeLength (opByte 0 y 6#3) = 2 := by decide
theorem opcodeLength_quadrant1 : ∀ y z : BitVec 3, opcodeLength (opByte 1 y z) = 1 := by decide
theorem opcodeLength_quadrant2 : ∀ y z : BitVec 3, opcodeLength (opByte 2 y z) = 1 := by decide
theorem opcodeLength_rst : ∀ y : BitVec 3, opcodeLength (opByte 3 y 7#3) = 1 := by decide

theorem decodeQuadrant0_reads (y z : BitVec 3) (rest : List Byte) :
    ReadsOperands rest (opcodeLength (opByte 0 y z)) (decodeQuadrant0 y z rest) := by
  match z with
  | 0#3 =>
    match y with
    | 0#3 | 1#3 | 2#3 | 3#3 | 4#3 | 5#3 | 6#3 | 7#3 => exact .none rfl
  | 1#3 =>
    rw [opcodeLength_lxi_dad, decodeQuadrant0]
    split
    · exact .none rfl
    · exact .word fun _ => rfl
  | 2#3 =>
    match y with
    | 0#3 | 1#3 | 2#3 | 3#3 => exact .none rfl
    | 4#3 | 5#3 | 6#3 | 7#3 => exact .word fun _ => rfl
  | 3#3 =>
    rw [opcodeLength_inx_dcx, decodeQuadrant0]
    split
    · exact .none rfl
    · exact .none rfl
  | 4#3 => rw [opcodeLength_inr]; exact .none rfl
  | 5#3 => rw [opcodeLength_dcr]; exact .none rfl
  | 6#3 => rw [opcodeLength_mvi]; exact .byte fun _ => rfl
  | 7#3 =>
    match y with
    | 0#3 | 1#3 | 2#3 | 3#3 | 4#3 | 5#3 | 6#3 | 7#3 => exact .none rfl

/-- The opcodes of quadrant 1 outside the slot of HLT never name memory twice (R163). -/
theorem mov_ofCode_wf : ∀ y z : BitVec 3, ¬(y = 6 ∧ z = 6) →
    (Instr.mov (Operand8.ofCode y) (Operand8.ofCode z)).wf = true := by decide

theorem decodeQuadrant1_reads (y z : BitVec 3) (rest : List Byte) :
    ReadsOperands rest (opcodeLength (opByte 1 y z)) (decodeQuadrant1 y z rest) := by
  rw [opcodeLength_quadrant1, decodeQuadrant1]
  split
  case isTrue => exact .none rfl
  case isFalse hslot => exact .none (mov_ofCode_wf y z hslot)

theorem decodeQuadrant2_reads (y z : BitVec 3) (rest : List Byte) :
    ReadsOperands rest (opcodeLength (opByte 2 y z)) (decodeQuadrant2 y z rest) := by
  rw [opcodeLength_quadrant2]
  match y with
  | 0#3 | 1#3 | 2#3 | 3#3 | 4#3 | 5#3 | 6#3 | 7#3 => exact .none rfl

theorem decodeQuadrant3_reads (y z : BitVec 3) (rest : List Byte) :
    ReadsOperands rest (opcodeLength (opByte 3 y z)) (decodeQuadrant3 y z rest) := by
  match z with
  | 0#3 | 1#3 =>
    match y with
    | 0#3 | 1#3 | 2#3 | 3#3 | 4#3 | 5#3 | 6#3 | 7#3 => exact .none rfl
  | 2#3 | 4#3 =>
    match y with
    | 0#3 | 1#3 | 2#3 | 3#3 | 4#3 | 5#3 | 6#3 | 7#3 => exact .word fun _ => rfl
  | 3#3 =>
    match y with
    | 0#3 | 1#3 => exact .word fun _ => rfl
    | 2#3 | 3#3 => exact .byte fun _ => rfl
    | 4#3 | 5#3 | 6#3 | 7#3 => exact .none rfl
  | 5#3 =>
    match y with
    | 1#3 => exact .word fun _ => rfl
    | 0#3 | 2#3 | 3#3 | 4#3 | 5#3 | 6#3 | 7#3 => exact .none rfl
  | 6#3 =>
    match y with
    | 0#3 | 1#3 | 2#3 | 3#3 | 4#3 | 5#3 | 6#3 | 7#3 => exact .byte fun _ => rfl
  | 7#3 => rw [opcodeLength_rst]; exact .none rfl

/-! ## The decoder (R82, R90) -/

/-- Everything the decoder can answer on an opcode byte and the bytes after it. -/
theorem decode_cons_reads (op : Byte) (rest : List Byte) :
    ReadsOperands rest (opcodeLength op) (decode (op :: rest)) := by
  have hlength : opcodeLength op =
      opcodeLength (opByte (op.extractLsb' 6 2) (op.extractLsb' 3 3) (op.extractLsb' 0 3)) := by rw [opByte_fields]
  rw [hlength, decode]
  generalize op.extractLsb' 6 2 = quadrant
  match quadrant with
  | 0#2 => exact decodeQuadrant0_reads _ _ rest
  | 1#2 => exact decodeQuadrant1_reads _ _ rest
  | 2#2 => exact decodeQuadrant2_reads _ _ rest
  | 3#2 => exact decodeQuadrant3_reads _ _ rest

/-- What decodes is an instruction of the machine. -/
theorem wf_of_decode {bytes rest : List Byte} {i : Instr} (h : decode bytes = .ok i rest) : i.wf = true := by
  cases bytes with
  | nil => cases h
  | cons op more => exact (h ▸ decode_cons_reads op more).wf

/-- Every opcode byte decodes, if the bytes it needs follow. -/
theorem decode_cons_ok (op : Byte) (rest : List Byte) (hlength : opcodeLength op ≤ rest.length + 1) :
    ∃ i after, decode (op :: rest) = .ok i after :=
  (decode_cons_reads op rest).ok hlength

theorem opcodeLength_le (op : Byte) : opcodeLength op ≤ 3 := by
  rcases opcodeLength_cases op with h | h | h <;> omega

theorem decode_ne_mov_m_m (bytes rest : List Byte) : decode bytes ≠ .ok (.mov .m .m) rest := fun h =>
  absurd (wf_of_decode h) (by decide)

end Sys2Proof

namespace Sys2Proof.Machine

/-! ## A step always has a next state -/

/-- A fetch reads the bytes its opcode needs, so they decode (R80, R91). -/
theorem State.fetchInstr_ok (s : State) : ∃ i rest, s.fetchInstr.1 = .ok i rest := by
  rw [State.fetchInstr_fst]
  rcases opcodeLength_cases (s.read8 s.pc) with h | h | h <;> exact decode_cons_ok _ _ (by simp [h])

/-- Every arm of `exec` answers a next state, but for MOV M,M (R163). -/
theorem exec_next_of_wf (i : Instr) (s : State) (hi : i.wf = true) : ∃ t, exec i s = .next t := by
  cases i with
  | mov dst src =>
    match dst, src with
    | .m, .reg _ | .reg _, _ => exact ⟨_, rfl⟩
  | _ => exact ⟨_, rfl⟩

theorem step_next (s : State) : ∃ t, step s = .next t := by
  obtain ⟨i, rest, hfetch⟩ := s.fetchInstr_ok
  have hwf : i.wf = true := wf_of_decode (s.fetchInstr_fst ▸ hfetch)
  obtain ⟨t, hexec⟩ := exec_next_of_wf i s.fetchInstr.2 hwf
  exact ⟨t, by rw [step, hfetch]; exact hexec⟩

/-- Settles O4: three bytes are enough for any opcode, a step has a next state, and what decodes is well-formed. -/
theorem decoderNeverRefuses : Obligations.DecoderNeverRefuses := by
  unfold Obligations.DecoderNeverRefuses
  refine ⟨fun b1 b2 b3 => decode_cons_ok b1 [b2, b3] (opcodeLength_le b1), fun s why hrefused => ?noRefusal,
    decode_ne_mov_m_m, fun rest => rfl⟩
  case noRefusal =>
    obtain ⟨t, hnext⟩ := step_next s
    cases hnext.symm.trans hrefused

end Sys2Proof.Machine

end

section
/-! The statement of 40_flag_alu_units.md: parity, Add8, Inc8 and Dec8 in exact numbers. -/

namespace Sys2Proof.Machine

/-! ## Parity (R110) -/

/-- Counting bits of a byte is adding binary digits of its value, at any list of places. -/
theorem countP_getLsbD_eq_sum (v : Byte) (places : List Nat) :
    places.countP (fun k => v.getLsbD k) = (places.map fun k => v.toNat / 2 ^ k % 2).sum := by
  induction places with
  | nil => rfl
  | cons k places ih =>
    have hdigit : v.toNat / 2 ^ k % 2 = if v.getLsbD k then 1 else 0 := by
      rw [← Nat.toNat_testBit, BitVec.testBit_toNat, Bool.toNat, Bool.cond_eq_ite]
    rw [List.countP_cons, List.map_cons, List.sum_cons, ih, hdigit, Nat.add_comm]

theorem parity_iff (v : Byte) :
    parity v = true ↔ ((List.range 8).map fun k => v.toNat / 2 ^ k % 2).sum % 2 = 0 := by
  rw [parity, popcount, countP_getLsbD_eq_sum, beq_iff_eq]

/-! ## Add8 and Sub8 (R112, R113) -/

/-- The carry out of bit 7 is the part of the sum that the result has no room for. -/
theorem add8_r_add_cy (a b : Byte) (cin : Bool) :
    (add8 a b cin).r.toNat + 256 * (add8 a b cin).cy.toNat = a.toNat + b.toNat + cin.toNat := by
  have ha := a.isLt
  have hb := b.isLt
  have hcin := cin.toNat_le
  have hcy : (add8 a b cin).cy = decide (255 < a.toNat + b.toNat + cin.toNat) := rfl
  rw [add8_r, hcy]
  by_cases hsum : 255 < a.toNat + b.toNat + cin.toNat
  · rw [decide_eq_true hsum, Bool.toNat_true]
    omega
  · rw [decide_eq_false hsum, Bool.toNat_false]
    omega

theorem add8_ac_iff (a b : Byte) (cin : Bool) :
    (add8 a b cin).ac = true ↔ 15 < a.toNat % 16 + b.toNat % 16 + cin.toNat :=
  decide_eq_true_iff

theorem sub8_ac_iff (a b : Byte) (bin : Bool) :
    (sub8 a b bin).ac = true ↔ a.toNat % 16 < b.toNat % 16 + bin.toNat :=
  decide_eq_true_iff

/-! ## Inc8 and Dec8 (R115) -/

theorem toNat_byte_one : (1 : Byte).toNat = 1 := rfl

theorem inc8_r (v : Byte) : (inc8 v).1.toNat = (v.toNat + 1) % 256 := BitVec.toNat_add v 1

theorem inc8_ac_iff (v : Byte) : (inc8 v).2 = true ↔ (inc8 v).1.toNat % 16 = 0 := beq_iff_eq

/-- The incremented low nibble is 0 exactly if adding 1 carries out of bit 3. -/
theorem inc8_ac_eq_add8_ac (v : Byte) : (inc8 v).2 = (add8 v 1 false).ac := by
  rw [Bool.eq_iff_iff, inc8_ac_iff, inc8_r, add8_ac_iff, Bool.toNat_false, toNat_byte_one]
  omega

/-- The decremented byte is the one whose successor is `v`. -/
theorem dec8_r_succ (v : Byte) : ((dec8 v).1.toNat + 1) % 256 = v.toNat :=
  calc ((dec8 v).1.toNat + 1) % 256 = (v - 1 + 1).toNat := (BitVec.toNat_add (v - 1) 1).symm
    _ = v.toNat := by rw [BitVec.sub_add_cancel]

theorem dec8_ac_iff (v : Byte) : (dec8 v).2 = true ↔ v.toNat % 16 = 0 := beq_iff_eq

/-- The low nibble is 0 exactly if subtracting 1 borrows out of it. -/
theorem dec8_ac_eq_sub8_ac (v : Byte) : (dec8 v).2 = (sub8 v 1 false).ac := by
  rw [Bool.eq_iff_iff, dec8_ac_iff, sub8_ac_iff, Bool.toNat_false, toNat_byte_one]
  omega

/-- Settles O14: the laws of the units, one for each clause. -/
theorem flagUnitsAreExact : Obligations.FlagUnitsAreExact := by
  unfold Obligations.FlagUnitsAreExact
  exact ⟨fun v => ⟨parity_iff v, parity_eq_evenParity v⟩, szpOf_ofResult,
    fun a b cin => ⟨add8_r_add_cy a b cin, add8_ac_iff a b cin⟩,
    fun v => ⟨inc8_r v, inc8_ac_iff v, inc8_ac_eq_add8_ac v, dec8_r_succ v, dec8_ac_iff v, dec8_ac_eq_sub8_ac v⟩⟩

end Sys2Proof.Machine

end

section
/-! The statement of 45_immediate_direct.md R266: adding to A with all five flags, and ADI, which adds its operand byte. -/

namespace Sys2Proof.Machine

/-! ## Adding to A (R112, R180) -/

theorem add8_cy_iff (a b : Byte) (cin : Bool) :
    (add8 a b cin).cy = true ↔ 256 ≤ a.toNat + b.toNat + cin.toNat :=
  decide_eq_true_iff

/-- Accumulating the answer of Add8 is an addition to A, whatever the operand byte and the carry are. -/
theorem State.accumulate_add8 (s : State) (x : Byte) (cin : Bool) :
    Added s (s.accumulate (add8 s.a x cin)) x cin := by
  obtain ⟨ha, hszp, hac, hcy, hsp, hpc, hframe⟩ := s.accumulate_spec (add8 s.a x cin)
  refine ⟨?sum, ?szp, ?carry, ?nibbleCarry, hsp, hpc, hframe⟩
  case sum => rw [ha, add8_r]
  case szp => rwa [ha]
  case carry => rw [hcy, add8_cy_iff]
  case nibbleCarry => rw [hac, add8_ac_iff, Nat.succ_le_iff]

/-! ## ADI (R266) -/

theorem decode_adi (d8 : Byte) (rest : List Byte) : decode (0xC6 :: d8 :: rest) = .ok (.adi d8) rest := rfl

theorem length_adi (d8 : Byte) : (Instr.adi d8).length = 2 := rfl

theorem exec_adi (d8 : Byte) (s : State) : exec (.adi d8) s = .next (s.accumulate (add8 s.a d8 false)) := rfl

/-- Settles O36: the addition to A (`State.accumulate_add8`) of the operand byte, without a carry in. -/
theorem addImmediate : Obligations.AddImmediate := by
  unfold Obligations.AddImmediate
  intro d8 rest s
  exact ⟨decode_adi d8 rest, length_adi d8, _, exec_adi d8 s, s.accumulate_add8 d8 false⟩

end Sys2Proof.Machine

end

section
/-! The statement of 48_undefined_opcodes.md R370 to R372: the ten NOP holes and the byte 0xD9. -/

namespace Sys2Proof

theorem opcodeLength_nopHole (hole : NopHole) : opcodeLength hole.byte = 1 := by cases hole <;> rfl

theorem decode_nopHole (hole : NopHole) : decode [hole.byte] = .ok (.undefNop hole) [] := by cases hole <;> rfl

theorem opcodeLength_undefRet : opcodeLength 0xD9 = 1 := rfl

theorem decode_undefRet : decode [0xD9] = .ok .undefRet [] := rfl

/-- The ten bytes of R370 and R371 are the bytes of the holes. -/
theorem exists_nopHole_of_mem {op : Byte}
    (hop : op ∈ [0x08, 0x10, 0x18, 0x20, 0x28, 0x30, 0x38, 0xDD, 0xED, 0xFD]) : ∃ hole : NopHole, hole.byte = op := by
  have hmap : op ∈ [NopHole.x08, .x10, .x18, .x20, .x28, .x30, .x38, .xDD, .xED, .xFD].map NopHole.byte := hop
  obtain ⟨hole, _, hbyte⟩ := List.mem_map.mp hmap
  exact ⟨hole, hbyte⟩

end Sys2Proof

namespace Sys2Proof.Machine

/-- A step at an instruction of one byte runs it with PC moved by 1 (R80). -/
theorem step_of_decode_one_byte {s : State} {i : Instr} {rest : List Byte}
    (hlength : opcodeLength (s.read8 s.pc) = 1) (hdecode : decode [s.read8 s.pc] = .ok i rest) :
    step s = exec i (s.setPc (s.pc + 1)) := by
  have hfetch : s.fetchInstr.1 = .ok i rest := by rw [State.fetchInstr_fst, if_pos hlength, hdecode]
  have hpc : s.fetchInstr.2 = s.setPc (s.pc + 1) := by rw [State.fetchInstr_snd, hlength]; rfl
  rw [step, hfetch, hpc]

theorem exec_undefNop (hole : NopHole) (s : State) : exec (.undefNop hole) s = .next s := rfl

theorem exec_undefRet (s : State) : exec .undefRet s = .next s.returnToCaller := rfl

/-- 0xD9 aliases RET (R372). -/
theorem exec_undefRet_eq_exec_ret (s : State) : exec .undefRet s = exec .ret s := rfl

/-- R370, R371. -/
theorem step_nopHole {s : State} {hole : NopHole} (hbyte : s.read8 s.pc = hole.byte) :
    step s = .next (s.setPc (s.pc + 1)) := by
  have hstep : step s = exec (.undefNop hole) (s.setPc (s.pc + 1)) :=
    step_of_decode_one_byte (hbyte ▸ opcodeLength_nopHole hole) (hbyte ▸ decode_nopHole hole)
  rw [hstep, exec_undefNop]

/-- A return overwrites PC, so it does not depend on where PC was. -/
theorem State.returnToCaller_setPc (s : State) (v : Word) : (s.setPc v).returnToCaller = s.returnToCaller := rfl

/-- R372. -/
theorem step_undefRet {s : State} (hbyte : s.read8 s.pc = 0xD9) : step s = .next s.returnToCaller := by
  have hstep : step s = exec .undefRet (s.setPc (s.pc + 1)) :=
    step_of_decode_one_byte (hbyte ▸ opcodeLength_undefRet) (hbyte ▸ decode_undefRet)
  rw [hstep, exec_undefRet, State.returnToCaller_setPc]

/-- Settles O17: the holes and 0xD9 decode as one byte each, and their arms are those of NOP and RET. -/
theorem undefinedBytesRunAsNopAndRet : Obligations.UndefinedBytesRunAsNopAndRet := by
  unfold Obligations.UndefinedBytesRunAsNopAndRet
  refine ⟨fun s hop => ?nopHoles, fun s hbyte => ⟨s.returnToCaller, step_undefRet hbyte, ?popped, ?sp, ?frame⟩,
    fun hole s => ⟨exec_undefNop hole s, exec_undefRet_eq_exec_ret s, ?ret⟩⟩
  case nopHoles =>
    obtain ⟨hole, hbyte⟩ := exists_nopHole_of_mem hop
    exact step_nopHole hbyte.symm
  case popped => rw [State.returnToCaller_spec, State.setPc_pc, toNat_joinBytes]
  case sp => rw [State.returnToCaller_spec, State.setPc_sp, State.setSp_sp]
  case frame => rfl
  case ret => rw [exec_undefRet, State.returnToCaller_spec]; rfl

end Sys2Proof.Machine

end

section
/-! The statements of 30_encoding.md: the two round trips, the lengths, and which instruction a step runs. -/

namespace Sys2Proof

/-! ## Encoding, then decoding (R87, R88) -/

/-- The decoder reads back the operand byte order that `format3` writes (R87). -/
@[simp] theorem withWord_low_high (k : Word → Instr) (v : Word) (rest : List Byte) :
    withWord k (lowByte v :: highByte v :: rest) = .ok (k v) rest := by
  rw [withWord, joinBytes_high_low]

/-- The fields of an opcode byte are those it was joined from (R83). -/
theorem opByte_quadrant : ∀ (q : BitVec 2) (y z : BitVec 3), (opByte q y z).extractLsb' 6 2 = q := by decide
theorem opByte_y : ∀ (q : BitVec 2) (y z : BitVec 3), (opByte q y z).extractLsb' 3 3 = y := by decide
theorem opByte_z : ∀ (q : BitVec 2) (y z : BitVec 3), (opByte q y z).extractLsb' 0 3 = z := by decide

@[simp] theorem decode_opByte_quadrant0 (y z : BitVec 3) (rest : List Byte) :
    decode (opByte 0#2 y z :: rest) = decodeQuadrant0 y z rest := by
  rw [decode, opByte_quadrant, opByte_y, opByte_z]
  rfl

@[simp] theorem decode_opByte_quadrant1 (y z : BitVec 3) (rest : List Byte) :
    decode (opByte 1#2 y z :: rest) = decodeQuadrant1 y z rest := by
  rw [decode, opByte_quadrant, opByte_y, opByte_z]
  rfl

@[simp] theorem decode_opByte_quadrant2 (y z : BitVec 3) (rest : List Byte) :
    decode (opByte 2#2 y z :: rest) = decodeQuadrant2 y z rest := by
  rw [decode, opByte_quadrant, opByte_y, opByte_z]
  rfl

@[simp] theorem decode_opByte_quadrant3 (y z : BitVec 3) (rest : List Byte) :
    decode (opByte 3#2 y z :: rest) = decodeQuadrant3 y z rest := by
  rw [decode, opByte_quadrant, opByte_y, opByte_z]
  rfl

/-- The two codes of MOV M,M are the slot of HLT, and no other pair of operands is (R163). -/
theorem mov_wf_iff_code (dst src : Operand8) :
    (Instr.mov dst src).wf = true ↔ ¬(dst.code = 6 ∧ src.code = 6) := by
  have hm : ∀ x : Operand8, x.code = 6 ↔ x = .m := fun x =>
    ⟨fun h => by rw [← Operand8.ofCode_code x, h]; rfl, fun h => by rw [h]; rfl⟩
  rw [hm, hm]
  match dst, src with
  | .m, .m => simp [Instr.wf]
  | .m, .reg _ | .reg _, _ => simp [Instr.wf]

/-- Outside the slot of HLT the decoder reads MOV back by the codes of its operands. -/
theorem decode_encode_mov {dst src : Operand8} (h : (Instr.mov dst src).wf = true) (rest : List Byte) :
    decode (encode (.mov dst src) ++ rest) = .ok (.mov dst src) rest := by
  have hslot := (mov_wf_iff_code dst src).mp h
  have hencode : encode (.mov dst src) ++ rest = opByte 1#2 dst.code src.code :: rest := rfl
  rw [hencode, decode_opByte_quadrant1, decodeQuadrant1, if_neg hslot, Operand8.ofCode_code, Operand8.ofCode_code]

theorem decode_encode (i : Instr) (rest : List Byte) (hi : i.wf = true) :
    decode (encode i ++ rest) = .ok i rest := by
  cases i with
  | mov dst src => exact decode_encode_mov hi rest
  | inr x | dcr x => simp [encode, decodeQuadrant0]
  | mvi x d8 => simp [encode, decodeQuadrant0, withByte]
  | add x | adc x | sub x | sbb x | ana x | xra x | ora x | cmp x => simp [encode, decodeQuadrant2]
  | rst n => simp [encode, decodeQuadrant3]
  | stax p | ldax p | push p | pop p | dad p | inx p | dcx p => cases p <;> rfl
  | lxi p d16 => cases p <;> exact withWord_low_high _ d16 rest
  | sta a16 | lda a16 | shld a16 | lhld a16 | jmp a16 | undefJmp a16 | call a16
  | jnz a16 | jz a16 | jnc a16 | jc a16 | jpo a16 | jpe a16 | jp a16 | jm a16
  | cnz a16 | cz a16 | cnc a16 | cc a16 | cpo a16 | cpe a16 | cp a16 | cm a16 =>
    exact withWord_low_high _ a16 rest
  | undefNop hole => cases hole <;> rfl
  | _ => rfl

/-- Settles O5: `decode_encode`. -/
theorem decodeOfEncodeIsTheInstruction : Obligations.DecodeOfEncodeIsTheInstruction := by
  unfold Obligations.DecodeOfEncodeIsTheInstruction
  exact decode_encode

/-! ## Decoding, then encoding (R82, R88) -/

/-- If the decoder's answer `d` is an instruction, its bytes and the bytes left over are `op :: rest`. -/
def EncodesTo (op : Byte) (rest : List Byte) (d : Decoded) : Prop :=
  ∀ i after, d = .ok i after → encode i ++ after = op :: rest

section
variable {op : Byte} {rest : List Byte}

theorem EncodesTo.none {i : Instr} (h : encode i = [op]) : EncodesTo op rest (.ok i rest) := by
  intro _ _ hd
  cases hd
  rw [h, List.singleton_append]

theorem EncodesTo.byte {k : Byte → Instr} (h : ∀ d8, encode (k d8) = [op, d8]) :
    EncodesTo op rest (withByte k rest) := by
  intro _ _ hd
  match rest with
  | [] => cases hd
  | d8 :: _ => cases hd; rw [h]; rfl

theorem EncodesTo.word {k : Word → Instr} (h : ∀ d16, encode (k d16) = format3 op d16) :
    EncodesTo op rest (withWord k rest) := by
  intro _ _ hd
  match rest with
  | [] | [_] => cases hd
  | lo :: hi :: _ => cases hd; rw [h, format3, lowByte_joinBytes, highByte_joinBytes]; rfl

end

/-- The middle field of an opcode with a pair is the pair's code beside the low bit (R83, R84). -/
theorem pairField_code_ofCode_one : ∀ y : BitVec 3, y.getLsbD 0 = true →
    pairField (Pair.ofCode (y.extractLsb' 1 2)).code 1 = y := by decide

theorem pairField_code_ofCode_zero : ∀ y : BitVec 3, ¬y.getLsbD 0 = true →
    pairField (Pair.ofCode (y.extractLsb' 1 2)).code 0 = y := by decide

theorem decodeQuadrant0_encodesTo (y z : BitVec 3) (rest : List Byte) :
    EncodesTo (opByte 0 y z) rest (decodeQuadrant0 y z rest) := by
  match z with
  | 0#3 =>
    match y with
    | 0#3 | 1#3 | 2#3 | 3#3 | 4#3 | 5#3 | 6#3 | 7#3 => exact .none rfl
  | 1#3 =>
    rw [decodeQuadrant0]
    split
    case isTrue hbit => exact .none (by rw [encode, pairField_code_ofCode_one y hbit]; rfl)
    case isFalse hbit => exact .word fun _ => by rw [encode, pairField_code_ofCode_zero y hbit]; rfl
  | 2#3 =>
    match y with
    | 0#3 | 1#3 | 2#3 | 3#3 => exact .none rfl
    | 4#3 | 5#3 | 6#3 | 7#3 => exact .word fun _ => rfl
  | 3#3 =>
    rw [decodeQuadrant0]
    split
    case isTrue hbit => exact .none (by rw [encode, pairField_code_ofCode_one y hbit]; rfl)
    case isFalse hbit => exact .none (by rw [encode, pairField_code_ofCode_zero y hbit]; rfl)
  | 4#3 | 5#3 => exact .none (by rw [encode, Operand8.code_ofCode]; rfl)
  | 6#3 => exact .byte fun _ => by rw [encode, Operand8.code_ofCode]; rfl
  | 7#3 =>
    match y with
    | 0#3 | 1#3 | 2#3 | 3#3 | 4#3 | 5#3 | 6#3 | 7#3 => exact .none rfl

theorem decodeQuadrant1_encodesTo (y z : BitVec 3) (rest : List Byte) :
    EncodesTo (opByte 1 y z) rest (decodeQuadrant1 y z rest) := by
  rw [decodeQuadrant1]
  split
  case isTrue hslot =>
    obtain ⟨rfl, rfl⟩ := hslot
    exact .none rfl
  case isFalse => exact .none (by rw [encode, Operand8.code_ofCode, Operand8.code_ofCode])

theorem decodeQuadrant2_encodesTo (y z : BitVec 3) (rest : List Byte) :
    EncodesTo (opByte 2 y z) rest (decodeQuadrant2 y z rest) := by
  match y with
  | 0#3 | 1#3 | 2#3 | 3#3 | 4#3 | 5#3 | 6#3 | 7#3 =>
    exact .none (by rw [encode, Operand8.code_ofCode]; rfl)

theorem decodeQuadrant3_encodesTo (y z : BitVec 3) (rest : List Byte) :
    EncodesTo (opByte 3 y z) rest (decodeQuadrant3 y z rest) := by
  match z with
  | 0#3 | 1#3 =>
    match y with
    | 0#3 | 1#3 | 2#3 | 3#3 | 4#3 | 5#3 | 6#3 | 7#3 => exact .none rfl
  | 2#3 | 4#3 =>
    match y with
    | 0#3 | 1#3 | 2#3 | 3#3 | 4#3 | 5#3 | 6#3 | 7#3 => exact .word fun _ => rfl
  | 3#3 =>
    match y with
    | 0#3 | 1#3 => exact .word fun _ => rfl
    | 2#3 | 3#3 => exact .byte fun _ => rfl
    | 4#3 | 5#3 | 6#3 | 7#3 => exact .none rfl
  | 5#3 =>
    match y with
    | 1#3 => exact .word fun _ => rfl
    | 0#3 | 2#3 | 3#3 | 4#3 | 5#3 | 6#3 | 7#3 => exact .none rfl
  | 6#3 =>
    match y with
    | 0#3 | 1#3 | 2#3 | 3#3 | 4#3 | 5#3 | 6#3 | 7#3 => exact .byte fun _ => rfl
  | 7#3 => exact .none rfl

theorem decode_cons_encodesTo (op : Byte) (rest : List Byte) : EncodesTo op rest (decode (op :: rest)) := by
  rw [← opByte_fields op, decode, opByte_quadrant, opByte_y, opByte_z]
  generalize op.extractLsb' 6 2 = quadrant
  match quadrant with
  | 0#2 => exact decodeQuadrant0_encodesTo _ _ rest
  | 1#2 => exact decodeQuadrant1_encodesTo _ _ rest
  | 2#2 => exact decodeQuadrant2_encodesTo _ _ rest
  | 3#2 => exact decodeQuadrant3_encodesTo _ _ rest

theorem encode_of_decode {bytes rest : List Byte} {i : Instr} (h : decode bytes = .ok i rest) :
    encode i ++ rest = bytes := by
  cases bytes with
  | nil => cases h
  | cons op more => exact decode_cons_encodesTo op more i rest h

/-- Settles O6: `wf_of_decode` and `encode_of_decode`, a split over the opcode map. -/
theorem encodeOfDecodeIsTheBytes : Obligations.EncodeOfDecodeIsTheBytes := by
  unfold Obligations.EncodeOfDecodeIsTheBytes
  exact fun _ _ _ h => ⟨wf_of_decode h, encode_of_decode h⟩

/-! ## Lengths (R82, R91) -/

/-- What is left over is what follows the operand bytes. -/
theorem ReadsOperands.rest_eq {rest after : List Byte} {n : Nat} {i : Instr}
    (h : ReadsOperands rest n (.ok i after)) : after = rest.drop (n - 1) ∧ n ≤ rest.length + 1 ∧ 1 ≤ n := by
  generalize hd : Decoded.ok i after = d at h
  cases h with
  | none => cases hd; simp
  | byte =>
    match rest with
    | [] => cases hd
    | _ :: _ => cases hd; simp
  | word =>
    match rest with
    | [] | [_] => cases hd
    | _ :: _ :: _ => cases hd; simp

/-- Bytes are rejected exactly where operand bytes are missing. -/
theorem ReadsOperands.rejected_iff {rest : List Byte} {n : Nat} {d : Decoded} (h : ReadsOperands rest n d) :
    (∃ why, d = .rejected why) ↔ rest.length + 1 < n := by
  cases h with
  | none => simp
  | byte =>
    match rest with
    | [] => simp [withByte]
    | _ :: _ => simp [withByte]
  | word =>
    match rest with
    | [] | [_] => simp [withWord]
    | _ :: _ :: _ => simp [withWord]

theorem length_and_rest_of_decode {op : Byte} {more rest : List Byte} {i : Instr}
    (h : decode (op :: more) = .ok i rest) :
    i.length = opcodeLength op ∧ rest = more.drop (opcodeLength op - 1) := by
  obtain ⟨hrest, hmore, hpos⟩ := (h ▸ decode_cons_reads op more).rest_eq
  have hbytes := congrArg List.length (encode_of_decode h)
  rw [List.length_append, List.length_cons, hrest, List.length_drop] at hbytes
  exact ⟨by rw [Instr.length]; omega, hrest⟩

/-- The counts of R91: 27 opcode bytes have length 3, 18 have length 2, 211 have length 1. -/
theorem count_opcodeLength_three :
    ((List.range 256).countP fun n => opcodeLength (BitVec.ofNat 8 n) == 3) = 27 := by decide +kernel

theorem count_opcodeLength_two :
    ((List.range 256).countP fun n => opcodeLength (BitVec.ofNat 8 n) == 2) = 18 := by decide +kernel

theorem count_opcodeLength_one :
    ((List.range 256).countP fun n => opcodeLength (BitVec.ofNat 8 n) == 1) = 211 := by decide +kernel

/-- Settles O7: the lengths of what is read, `ReadsOperands`, and a count over the 256 opcode bytes. -/
theorem lengthIsDecidedByTheOpcodeByte : Obligations.LengthIsDecidedByTheOpcodeByte := by
  unfold Obligations.LengthIsDecidedByTheOpcodeByte
  exact ⟨fun _ _ _ _ h => length_and_rest_of_decode h, fun op more => (decode_cons_reads op more).rejected_iff,
    count_opcodeLength_three, count_opcodeLength_two, count_opcodeLength_one⟩

/-! ## Words of the map, and the slot of MOV M,M -/

/-- Settles O1: each word is decoded. -/
theorem decodeWordsOfTheSpec : Obligations.DecodeWordsOfTheSpec := by
  unfold Obligations.DecodeWordsOfTheSpec
  decide

theorem count_mov_opcodes :
    ((List.range 256).countP fun n =>
      match decode [BitVec.ofNat 8 n] with
      | .ok (.mov _ _) _ => true
      | _ => false) = 63 := by decide +kernel

/-- Settles O23: `decode_ne_mov_m_m`, and a count over the 256 opcode bytes. -/
theorem movMemoryToMemoryIsNoInstruction : Obligations.MovMemoryToMemoryIsNoInstruction := by
  unfold Obligations.MovMemoryToMemoryIsNoInstruction
  exact ⟨rfl, decode_ne_mov_m_m, fun _ => rfl, fun _ => rfl, count_mov_opcodes, fun _ => rfl⟩

end Sys2Proof

namespace Sys2Proof.Machine

/-! ## What a step runs (R80) -/

/-- A fetch hands the decoder as many of the three bytes at PC as the opcode needs. -/
theorem State.fetchInstr_eq_take (s : State) :
    s.fetchInstr.1 = decode ([s.read8 s.pc, s.read8 (s.pc + 1), s.read8 (s.pc + 2)].take
      (opcodeLength (s.read8 s.pc))) := by
  have hpc : s.pc + 1 + 1 = s.pc + 2 := BitVec.add_assoc s.pc 1 1
  rw [State.fetchInstr_fst, hpc]
  rcases opcodeLength_cases (s.read8 s.pc) with h | h | h <;> rw [h] <;> rfl

/-- A fetch reads the instruction that the three bytes at PC decode to, and moves PC past its bytes. -/
theorem State.fetchInstr_of_decode {s : State} {i : Instr} {rest : List Byte}
    (h : decode [s.read8 s.pc, s.read8 (s.pc + 1), s.read8 (s.pc + 2)] = .ok i rest) :
    s.fetchInstr.1 = .ok i [] ∧ s.fetchInstr.2 = s.setPc (s.pc + BitVec.ofNat 16 i.length) := by
  have hlength := (length_and_rest_of_decode h).1
  have htake : [s.read8 s.pc, s.read8 (s.pc + 1), s.read8 (s.pc + 2)].take (opcodeLength (s.read8 s.pc)) =
      encode i ++ [] := by
    rw [← encode_of_decode h, ← hlength, Instr.length, List.take_left, List.append_nil]
  exact ⟨by rw [State.fetchInstr_eq_take, htake, decode_encode i [] (wf_of_decode h)],
    by rw [State.fetchInstr_snd, hlength]⟩

theorem step_of_decode {s : State} {i : Instr} {rest : List Byte}
    (h : decode [s.read8 s.pc, s.read8 (s.pc + 1), s.read8 (s.pc + 2)] = .ok i rest) :
    step s = exec i (s.setPc (s.pc + BitVec.ofNat 16 i.length)) := by
  obtain ⟨hinstr, hstate⟩ := State.fetchInstr_of_decode h
  rw [step, hinstr, hstate]

/-- Settles O2: `step_of_decode`; the fetch reads the bytes of the instruction alone, which decode to it again. -/
theorem stepRunsTheDecodedInstruction : Obligations.StepRunsTheDecodedInstruction := by
  unfold Obligations.StepRunsTheDecodedInstruction
  exact fun _ _ _ h => ⟨wf_of_decode h, step_of_decode h⟩

/-- Settles O3: `step_next` and `exec_next_of_wf`. -/
theorem everyStepHasANextState : Obligations.EveryStepHasANextState := by
  unfold Obligations.EveryStepHasANextState
  exact ⟨step_next, exec_next_of_wf⟩

end Sys2Proof.Machine

end

section
/-! The statements of 20_memory.md: canonical memories, and the bus operations of a step (log 16). -/

namespace Sys2Proof.Machine

/-! ## Canonical memories (R51, log 2) -/

/-- Nothing is listed below the first address of a canonical memory. -/
theorem Memory.readAt_of_lt_wfFrom {m : Memory} {lo x : Nat} (hm : Memory.wfFrom lo m = true) (hx : x < lo) :
    m.readAt x = Config.unlistedByte := by
  induction m generalizing lo with
  | nil => rfl
  | cons c rest ih =>
    obtain ⟨k, v⟩ := c
    obtain ⟨hlo, _, _, hrest⟩ := (Memory.wfFrom_cons lo k v rest).mp hm
    rw [Memory.readAt, if_neg (by omega)]
    exact ih hrest (by omega)

theorem Memory.readAt_cons_self (k : Nat) (v : Byte) (rest : Memory) : Memory.readAt ((k, v) :: rest) k = v :=
  if_pos rfl

/-- The first entry of a canonical memory is at the lowest address that does not read as unlisted. -/
theorem Memory.le_of_readAt_ne {m : Memory} {k x : Nat} {v : Byte} {lo : Nat}
    (hm : Memory.wfFrom lo ((k, v) :: m) = true) (hx : Memory.readAt ((k, v) :: m) x ≠ Config.unlistedByte) :
    k ≤ x := by
  obtain ⟨_, hk, hv, hrest⟩ := (Memory.wfFrom_cons lo k v m).mp hm
  have hfirst : Memory.wfFrom k ((k, v) :: m) = true := (Memory.wfFrom_cons k k v m).mpr ⟨le_rfl, hk, hv, hrest⟩
  exact Nat.le_of_not_lt fun hlt => hx (Memory.readAt_of_lt_wfFrom hfirst hlt)

/-- Canonical memories are equal if they read alike. The first entries of both are at the same address, since each
is the first address that does not read as unlisted. -/
theorem Memory.eq_of_readAt_eq {m n : Memory} {lo : Nat} (hm : Memory.wfFrom lo m = true)
    (hn : Memory.wfFrom lo n = true) (h : ∀ x < 65536, m.readAt x = n.readAt x) : m = n := by
  induction m generalizing n lo with
  | nil =>
    cases n with
    | nil => rfl
    | cons d rest' =>
      obtain ⟨j, w⟩ := d
      obtain ⟨_, hj, hw, _⟩ := (Memory.wfFrom_cons lo j w rest').mp hn
      exact absurd ((Memory.readAt_cons_self j w rest').symm.trans (h j hj).symm) hw
  | cons c rest ih =>
    obtain ⟨k, v⟩ := c
    obtain ⟨_, hk, hv, hrest⟩ := (Memory.wfFrom_cons lo k v rest).mp hm
    have hreadk := h k hk
    rw [Memory.readAt_cons_self] at hreadk
    cases n with
    | nil => exact absurd hreadk hv
    | cons d rest' =>
      obtain ⟨j, w⟩ := d
      obtain ⟨_, hj, hw, hrest'⟩ := (Memory.wfFrom_cons lo j w rest').mp hn
      have hreadj := h j hj
      rw [Memory.readAt_cons_self] at hreadj
      have hjk : j ≤ k := Memory.le_of_readAt_ne hn (hreadk ▸ hv)
      have hkj : k ≤ j := Memory.le_of_readAt_ne hm (hreadj ▸ hw)
      obtain rfl : k = j := le_antisymm hkj hjk
      rw [Memory.readAt_cons_self] at hreadk
      have hrests : ∀ x < 65536, Memory.readAt rest x = Memory.readAt rest' x := fun x hx => by
        by_cases hxk : k = x
        · have hlt : x < k + 1 := by omega
          rw [Memory.readAt_of_lt_wfFrom hrest hlt, Memory.readAt_of_lt_wfFrom hrest' hlt]
        · simpa [Memory.readAt, hxk] using h x hx
      rw [hreadk, ih hrest hrest' hrests]

theorem Memory.eq_of_wf {m n : Memory} (hm : m.wf = true) (hn : n.wf = true)
    (h : ∀ addr : Word, m.readAt addr.toNat = n.readAt addr.toNat) : m = n :=
  Memory.eq_of_readAt_eq hm hn fun x hx => by
    have hx' : (BitVec.ofNat 16 x).toNat = x := Nat.mod_eq_of_lt hx
    rw [← hx', h]

/-- Settles O12: `Memory.eq_of_wf`, an induction over both lists. -/
theorem canonicalMemoriesAreEqual : Obligations.CanonicalMemoriesAreEqual := by
  unfold Obligations.CanonicalMemoriesAreEqual
  exact fun _ _ => Memory.eq_of_wf

/-! ## Lists of bus operations -/

@[simp] theorem readAddrs_append (a b : List BusOp) : readAddrs (a ++ b) = readAddrs a ++ readAddrs b := by
  induction a with
  | nil => rfl
  | cons op rest ih => cases op <;> simp [readAddrs, ih]

@[simp] theorem writeAddrs_append (a b : List BusOp) : writeAddrs (a ++ b) = writeAddrs a ++ writeAddrs b := by
  induction a with
  | nil => rfl
  | cons op rest ih => cases op <;> simp [writeAddrs, ih]

@[simp] theorem Memory.afterOps_append (m : Memory) (a b : List BusOp) :
    m.afterOps (a ++ b) = (m.afterOps a).afterOps b := by
  induction a generalizing m with
  | nil => rfl
  | cons op rest ih => cases op <;> simp [Memory.afterOps, ih]

@[simp] theorem Memory.afterOps_fetchOps (m : Memory) (addr : Word) (n : Nat) : m.afterOps (fetchOps addr n) = m := by
  induction n generalizing addr with
  | zero => rfl
  | succ n ih => exact ih (addr + 1)

/-- The addresses of a fetch, counted from its first one. -/
theorem fetchOps_eq_map (addr : Word) (n : Nat) :
    fetchOps addr n = (List.range n).map fun k => BusOp.rd (addr + BitVec.ofNat 16 k) := by
  induction n generalizing addr with
  | zero => rfl
  | succ n ih =>
    have hsucc : ∀ k, addr + 1 + BitVec.ofNat 16 k = addr + BitVec.ofNat 16 (k + 1) := fun k => by
      rw [Nat.add_comm k 1, BitVec.ofNat_add, BitVec.add_assoc]
      rfl
    rw [fetchOps, ih, List.range_succ_eq_map, List.map_cons, List.map_map]
    exact congrArg₂ _ (by rw [BitVec.add_zero]) (List.map_congr_left fun k _ => by rw [hsucc]; rfl)

/-- Every other address reads as before. -/
theorem Memory.readAt_afterOps (m : Memory) {ops : List BusOp} {addr : Word} (h : addr ∉ writeAddrs ops) :
    (m.afterOps ops).readAt addr.toNat = m.readAt addr.toNat := by
  induction ops generalizing m with
  | nil => rfl
  | cons op rest ih =>
    cases op with
    | rd _ => exact ih m h
    | wr written v =>
      obtain ⟨hne, hrest⟩ := not_or.mp (mt List.mem_cons.mpr h)
      rw [Memory.afterOps, ih _ hrest, Memory.readAt_writeAt, if_neg fun heq => hne (BitVec.eq_of_toNat_eq heq)]

/-- Bus writes keep the canonical form (R50, R52). -/
theorem Memory.wf_afterOps {m : Memory} (ops : List BusOp) (hm : m.wf = true) : (m.afterOps ops).wf = true := by
  induction ops generalizing m with
  | nil => exact hm
  | cons op rest ih =>
    cases op with
    | rd _ => exact ih hm
    | wr addr v => exact ih (Memory.wf_writeAt m addr.toNat v hm addr.isLt)

end Sys2Proof.Machine
end

section
/-! The statements of 20_memory.md R59 and 70_reset_and_hazards.md: what a step reads and writes on the bus, and
that it depends on nothing else of memory. -/

namespace Sys2Proof.Machine

@[simp] theorem State.lowByte_hl (s : State) : lowByte s.hl = s.l := lowByte_joinBytes s.h s.l
@[simp] theorem State.highByte_hl (s : State) : highByte s.hl = s.h := highByte_joinBytes s.h s.l

/-! ## MOV, but for the term M,M (R160 to R163) -/

theorem exec_mov {dst src : Operand8} (h : (Instr.mov dst src).wf = true) (s : State) :
    exec (.mov dst src) s = .next (s.setOperand dst (s.operand src)) := by
  match dst, src with
  | .m, .reg _ | .reg _, _ => rfl

theorem dataOps_mov {dst src : Operand8} (h : (Instr.mov dst src).wf = true) (s : State) :
    dataOps (.mov dst src) s = readOps s src ++ writeOps s (s.operand src) dst := by
  match dst, src with
  | .m, .reg _ | .reg _, .m | .reg _, .reg _ => rfl

theorem mov_wf_of_exec {dst src : Operand8} {s t : State} (h : exec (.mov dst src) s = .next t) :
    (Instr.mov dst src).wf = true := by
  match dst, src with
  | .m, .m => cases h
  | .m, .reg _ | .reg _, _ => rfl

/-! ## The same state over another memory -/

/-- The state with another memory behind the bus. -/
def State.setMem (s : State) (m : Memory) : State := { s with mem := m }

/-- The memory `m` holds the bytes of `s` at the addresses that the operations read. -/
def ReadsAlike (ops : List BusOp) (s : State) (m : Memory) : Prop :=
  ∀ addr ∈ readAddrs ops, (s.setMem m).read8 addr = s.read8 addr

theorem ReadsAlike.left {a b : List BusOp} {s : State} {m : Memory} (h : ReadsAlike (a ++ b) s m) :
    ReadsAlike a s m := fun addr haddr => h addr (by simp [haddr])

theorem ReadsAlike.right {a b : List BusOp} {s : State} {m : Memory} (h : ReadsAlike (a ++ b) s m) :
    ReadsAlike b s m := fun addr haddr => h addr (by simp [haddr])

@[simp] theorem State.setMem_flags (s : State) (m : Memory) : (s.setMem m).flags = s.flags := rfl
@[simp] theorem State.setMem_seam (s : State) (m : Memory) : (s.setMem m).seam = s.seam := rfl
@[simp] theorem State.setMem_pc (s : State) (m : Memory) : (s.setMem m).pc = s.pc := rfl
@[simp] theorem State.setMem_self (s : State) : s.setMem s.mem = s := rfl

section
variable (s : State) (m : Memory)

/-! Operands. -/

@[simp] theorem State.reg_setMem (r : Reg8) : (s.setMem m).reg r = s.reg r := by cases r <;> rfl
@[simp] theorem State.pair_setMem (p : Pair) : (s.setMem m).pair p = s.pair p := by cases p <;> rfl
@[simp] theorem State.stackPair_setMem (p : StackPair) : (s.setMem m).stackPair p = s.stackPair p := by
  cases p <;> rfl
@[simp] theorem State.indexAddr_setMem (p : IndexPair) : (s.setMem m).indexAddr p = s.indexAddr p := by
  cases p <;> rfl

theorem State.operand_setMem {s : State} {m : Memory} {x : Operand8} (h : ReadsAlike (readOps s x) s m) :
    (s.setMem m).operand x = s.operand x := by
  cases x with
  | reg r => exact s.reg_setMem m r
  | m => exact h s.hl (by simp [readOps, readAddrs])

/-! Updates that touch no memory. -/

@[simp] theorem State.setReg_setMem (r : Reg8) (v : Byte) : (s.setMem m).setReg r v = (s.setReg r v).setMem m := by
  cases r <;> rfl
@[simp] theorem State.setPair_setMem (p : Pair) (v : Word) : (s.setMem m).setPair p v = (s.setPair p v).setMem m := by
  cases p <;> rfl
@[simp] theorem State.setStackPair_setMem (p : StackPair) (v : Word) :
    (s.setMem m).setStackPair p v = (s.setStackPair p v).setMem m := by
  cases p <;> rfl
@[simp] theorem State.jumpIf_setMem (k : Cond) (target : Word) :
    (s.setMem m).jumpIf k target = (s.jumpIf k target).setMem m := by
  rw [State.jumpIf, State.jumpIf, State.setMem_flags]
  split <;> rfl
@[simp] theorem State.portIn_setMem (port : Byte) : (s.setMem m).portIn port = (s.portIn port).setMem m := by
  simp only [State.portIn, State.setMem_seam]
  split <;> rfl
@[simp] theorem State.portOut_setMem (port : Byte) : (s.setMem m).portOut port = (s.portOut port).setMem m := by
  simp only [State.portOut, State.setMem_seam]
  split <;> rfl

/-! Updates that write on the bus. -/

theorem State.setOperand_setMem (x : Operand8) (v : Byte) :
    (s.setMem m).setOperand x v = (s.setOperand x v).setMem (m.afterOps (writeOps s v x)) := by
  cases x with
  | reg r => exact s.setReg_setMem m r v
  | m => rfl

theorem State.countTo_setMem (x : Operand8) (out : Byte × Bool) :
    (s.setMem m).countTo x out = (s.countTo x out).setMem (m.afterOps (writeOps s out.1 x)) := by
  rw [State.countTo, State.setOperand_setMem]
  rfl

/-- SHLD and XTHL list the halves of HL by their registers. -/
theorem State.write16_hl_setMem (addr : Word) :
    (s.setMem m).write16 addr s.hl = (s.write16 addr s.hl).setMem (m.afterOps [.wr addr s.l, .wr (addr + 1) s.h]) := by
  rw [← s.lowByte_hl, ← s.highByte_hl]
  rfl

theorem State.callIf_setMem (k : Cond) (target : Word) :
    (s.setMem m).callIf k target = (s.callIf k target).setMem (m.afterOps (callOps s k)) := by
  rw [State.callIf, State.callIf, callOps, State.setMem_flags]
  split <;> rfl

end

/-! Updates that read the bus. -/

theorem State.read16_setMem {s : State} {m : Memory} {addr : Word} (hlow : (s.setMem m).read8 addr = s.read8 addr)
    (hhigh : (s.setMem m).read8 (addr + 1) = s.read8 (addr + 1)) : (s.setMem m).read16 addr = s.read16 addr := by
  rw [State.read16, State.read16, hlow, hhigh]

theorem State.pop16_setMem {s : State} {m : Memory} (h : ReadsAlike (popOps s) s m) :
    (s.setMem m).pop16 = (s.pop16.1, s.pop16.2.setMem m) := by
  have hread : (s.setMem m).read16 s.sp = s.read16 s.sp :=
    State.read16_setMem (h _ (by simp [popOps, readAddrs])) (h _ (by simp [popOps, readAddrs]))
  exact congrArg (fun v => (v, s.pop16.2.setMem m)) hread

theorem State.returnToCaller_setMem {s : State} {m : Memory} (h : ReadsAlike (popOps s) s m) :
    (s.setMem m).returnToCaller = s.returnToCaller.setMem m := by
  rw [State.returnToCaller, State.pop16_setMem h]
  rfl

theorem State.returnIf_setMem {s : State} {m : Memory} {k : Cond} (h : ReadsAlike (returnOps s k) s m) :
    (s.setMem m).returnIf k = (s.returnIf k).setMem m := by
  rw [returnOps] at h
  rw [State.returnIf, State.returnIf, State.setMem_flags]
  split
  case isTrue hk => exact State.returnToCaller_setMem (by rwa [if_pos hk] at h)
  case isFalse => rfl

@[simp] theorem Memory.afterOps_readOps (m : Memory) (s : State) (x : Operand8) : m.afterOps (readOps s x) = m := by
  cases x <;> rfl

@[simp] theorem Memory.afterOps_popOps (m : Memory) (s : State) : m.afterOps (popOps s) = m := rfl

@[simp] theorem Memory.afterOps_returnOps (m : Memory) (s : State) (k : Cond) : m.afterOps (returnOps s k) = m := by
  rw [returnOps]
  split <;> rfl

/-! ## Every instruction over another memory (R59) -/

/-- Over a memory that holds the same bytes where it reads, an instruction does the same, and the writes on the bus
are those of `dataOps`. -/
theorem exec_setMem {i : Instr} {s t : State} {m : Memory} (h : exec i s = .next t)
    (hreads : ReadsAlike (dataOps i s) s m) :
    exec i (s.setMem m) = .next (t.setMem (m.afterOps (dataOps i s))) := by
  cases i with
  | add x | adc x | sub x | sbb x | ana x | xra x | ora x | cmp x =>
    cases h
    have hx := State.operand_setMem hreads
    refine congrArg Host.Outcome.next ?_
    rw [dataOps, Memory.afterOps_readOps, hx]
    rfl
  | inr x | dcr x =>
    cases h
    have hx := State.operand_setMem hreads.left
    refine congrArg Host.Outcome.next ?_
    rw [dataOps, Memory.afterOps_append, Memory.afterOps_readOps, hx]
    exact s.countTo_setMem m x _
  | mov dst src =>
    have hwf := mov_wf_of_exec h
    rw [exec_mov hwf] at h ⊢
    cases h
    rw [dataOps_mov hwf] at hreads ⊢
    rw [Memory.afterOps_append, Memory.afterOps_readOps, State.operand_setMem hreads.left, State.setOperand_setMem]
  | mvi x d8 => cases h; exact congrArg Host.Outcome.next (s.setOperand_setMem m x d8)
  | stax p =>
    cases h
    exact congrArg Host.Outcome.next (congrArg (fun addr => (s.setMem m).write8 addr s.a) (s.indexAddr_setMem m p))
  | ldax p =>
    cases h
    refine congrArg Host.Outcome.next ?_
    rw [State.indexAddr_setMem, hreads (s.indexAddr p) (by simp [dataOps, readAddrs])]
    rfl
  | lda a16 =>
    cases h
    refine congrArg Host.Outcome.next ?_
    rw [hreads a16 (by simp [dataOps, readAddrs])]
    rfl
  | lhld a16 =>
    cases h
    refine congrArg Host.Outcome.next ?_
    rw [State.read16_setMem (hreads a16 (by simp [dataOps, readAddrs]))
      (hreads (a16 + 1) (by simp [dataOps, readAddrs]))]
    rfl
  | shld a16 =>
    cases h
    refine congrArg Host.Outcome.next ?_
    rw [dataOps, ← s.write16_hl_setMem]
    rfl
  | push p =>
    cases h
    refine congrArg Host.Outcome.next ?_
    rw [State.stackPair_setMem]
    rfl
  | pop p =>
    cases h
    refine congrArg Host.Outcome.next ?_
    rw [State.pop16_setMem hreads]
    exact State.setStackPair_setMem _ m p _
  | xthl =>
    cases h
    have hread : (s.setMem m).read16 s.sp = s.read16 s.sp := congrArg Prod.fst (State.pop16_setMem hreads.left)
    refine congrArg Host.Outcome.next ?_
    rw [dataOps, Memory.afterOps_append, Memory.afterOps_popOps, ← State.setPair_setMem, ← State.write16_hl_setMem,
      ← hread]
    rfl
  | dad p =>
    cases h
    refine congrArg Host.Outcome.next ?_
    rw [State.pair_setMem]
    rfl
  | inx p | dcx p =>
    cases h
    refine congrArg Host.Outcome.next ?_
    rw [State.pair_setMem]
    exact s.setPair_setMem m _ _
  | lxi p d16 => cases h; exact congrArg Host.Outcome.next (s.setPair_setMem m p d16)
  | jnz a16 | jz a16 | jnc a16 | jc a16 | jpo a16 | jpe a16 | jp a16 | jm a16 =>
    cases h
    exact congrArg Host.Outcome.next (s.jumpIf_setMem m _ a16)
  | cnz a16 | cz a16 | cnc a16 | cc a16 | cpo a16 | cpe a16 | cp a16 | cm a16 =>
    cases h
    exact congrArg Host.Outcome.next (s.callIf_setMem m _ a16)
  | ret | undefRet => cases h; exact congrArg Host.Outcome.next (State.returnToCaller_setMem hreads)
  | rnz | rz | rnc | rc | rpo | rpe | rp | rm =>
    cases h
    refine congrArg Host.Outcome.next ?_
    rw [dataOps, Memory.afterOps_returnOps, State.returnIf_setMem hreads]
  | inp port => cases h; exact congrArg Host.Outcome.next (s.portIn_setMem m port)
  | outp port => cases h; exact congrArg Host.Outcome.next (s.portOut_setMem m port)
  | _ => cases h; rfl

theorem readOps_setMem (s : State) (m : Memory) (x : Operand8) : readOps (s.setMem m) x = readOps s x := by
  cases x <;> rfl

theorem writeOps_setMem (s : State) (m : Memory) (v : Byte) (x : Operand8) :
    writeOps (s.setMem m) v x = writeOps s v x := by
  cases x <;> rfl

/-- INR, DCR and MOV alone list a byte they have read. -/
theorem dataOps_setMem {i : Instr} {s : State} {m : Memory} (hreads : ReadsAlike (dataOps i s) s m) :
    dataOps i (s.setMem m) = dataOps i s := by
  cases i with
  | inr x | dcr x =>
    rw [dataOps, dataOps, readOps_setMem, writeOps_setMem, State.operand_setMem hreads.left]
  | mov dst src =>
    match dst, src with
    | .m, .m => rfl
    | .m, .reg r | .reg _, .reg r =>
      rw [dataOps_mov rfl, dataOps_mov rfl, readOps_setMem, writeOps_setMem]
      exact congrArg (fun v => readOps s (.reg r) ++ writeOps s v _) (s.reg_setMem m r)
    | .reg _, .m => rfl
  | mvi x d8 => exact writeOps_setMem s m d8 x
  | add x | adc x | sub x | sbb x | ana x | xra x | ora x | cmp x => exact readOps_setMem s m x
  | stax p => rw [dataOps, dataOps, State.indexAddr_setMem]; rfl
  | ldax p => rw [dataOps, dataOps, State.indexAddr_setMem]
  | push p => rw [dataOps, dataOps, State.stackPair_setMem]; rfl
  | _ => rfl

/-! ## The fetch over another memory -/

theorem ReadsAlike.tail {op : BusOp} {ops : List BusOp} {s : State} {m : Memory} (h : ReadsAlike (op :: ops) s m) :
    ReadsAlike ops s m := ReadsAlike.right (a := [op]) h

theorem State.fetchBytes_setMem {s : State} {m : Memory} {n : Nat} (h : ReadsAlike (fetchOps s.pc n) s m) :
    (s.setMem m).fetchBytes n = ((s.fetchBytes n).1, (s.fetchBytes n).2.setMem m) := by
  induction n generalizing s with
  | zero => rfl
  | succ n ih =>
    have hbyte : (s.setMem m).read8 s.pc = s.read8 s.pc := h s.pc (by simp [fetchOps, readAddrs])
    have hrest : (s.fetch8.2.setMem m).fetchBytes n = _ := ih h.tail
    have hstate : (s.setMem m).fetch8.2 = s.fetch8.2.setMem m := rfl
    rw [State.fetchBytes, hstate, hrest]
    exact congrArg (fun v => (v :: _, _)) hbyte

theorem State.fetchInstr_setMem {s : State} {m : Memory}
    (h : ReadsAlike (fetchOps s.pc (opcodeLength (s.read8 s.pc))) s m) :
    (s.setMem m).read8 s.pc = s.read8 s.pc ∧
      (s.setMem m).fetchInstr = (s.fetchInstr.1, s.fetchInstr.2.setMem m) := by
  have hlength : opcodeLength (s.read8 s.pc) = opcodeLength (s.read8 s.pc) - 1 + 1 := by
    rcases opcodeLength_cases (s.read8 s.pc) with h | h | h <;> rw [h]
  rw [hlength] at h
  have hbyte : (s.setMem m).read8 s.pc = s.read8 s.pc := h s.pc (by simp [fetchOps, readAddrs])
  have hoperands : (s.fetch8.2.setMem m).fetchBytes (opcodeLength (s.read8 s.pc) - 1) = _ :=
    State.fetchBytes_setMem h.tail
  have hfirst : (s.setMem m).fetch8 = (s.read8 s.pc, s.fetch8.2.setMem m) :=
    congrArg (fun v => (v, s.fetch8.2.setMem m)) hbyte
  refine ⟨hbyte, ?_⟩
  simp only [State.fetchInstr, hfirst, hoperands]
  rfl

/-! ## Every step, by its bus operations -/

/-- A step fetches an instruction and executes it; its bus operations are those of the fetch and its data accesses. -/
theorem step_cases {s t : State} (h : step s = .next t) :
    ∃ i rest, s.fetchInstr.1 = .ok i rest ∧ exec i s.fetchInstr.2 = .next t ∧
      stepOps s = fetchOps s.pc (opcodeLength (s.read8 s.pc)) ++ dataOps i s.fetchInstr.2 := by
  obtain ⟨i, rest, hfetch⟩ := s.fetchInstr_ok
  rw [step, hfetch] at h
  exact ⟨i, rest, hfetch, h, by rw [stepOps, hfetch]⟩

/-- The memory after an instruction: the case of `exec_setMem` in which the memory is not another one. -/
theorem exec_mem {i : Instr} {s t : State} (h : exec i s = .next t) : t.mem = s.mem.afterOps (dataOps i s) := by
  have hself := exec_setMem (m := s.mem) h fun _ _ => rfl
  rw [State.setMem_self, h] at hself
  exact congrArg State.mem (Host.Outcome.next.inj hself)

theorem State.fetchInstr_snd_mem (s : State) : s.fetchInstr.2.mem = s.mem := by
  rw [State.fetchInstr_snd, State.setPc_mem]

theorem step_mem {s t : State} (h : step s = .next t) : t.mem = s.mem.afterOps (stepOps s) := by
  obtain ⟨i, rest, _, hexec, hops⟩ := step_cases h
  rw [hops, Memory.afterOps_append, Memory.afterOps_fetchOps, exec_mem hexec, State.fetchInstr_snd_mem]

/-- Settles O54: `exec_mem` and `step_mem`; an address that is not written reads as before. -/
theorem stepWritesAreItsBusWrites : Obligations.StepWritesAreItsBusWrites := by
  unfold Obligations.StepWritesAreItsBusWrites
  refine ⟨fun _ _ _ => exec_mem, fun s t h => ⟨step_mem h, fun addr haddr => ?_⟩⟩
  rw [State.read8, step_mem h, Memory.readAt_afterOps s.mem haddr]
  rfl

/-- Settles O10: a step does its bus writes on memory, and bus writes keep the canonical form. -/
theorem everyStepKeepsTheInvariant : Obligations.EveryStepKeepsTheInvariant := by
  unfold Obligations.EveryStepKeepsTheInvariant
  refine ⟨fun s t hs hstep => ?_, State.mem_wf_hostWrite⟩
  rw [State.Inv, step_mem hstep]
  exact Memory.wf_afterOps _ hs

theorem step_setMem {s t : State} {m : Memory} (h : step s = .next t) (hreads : ReadsAlike (stepOps s) s m) :
    step (s.setMem m) = .next (t.setMem (m.afterOps (stepOps s))) ∧ stepOps (s.setMem m) = stepOps s := by
  obtain ⟨i, rest, hfetch, hexec, hops⟩ := step_cases h
  rw [hops] at hreads
  obtain ⟨hbyte, hfetch'⟩ := State.fetchInstr_setMem hreads.left
  have hdata : ReadsAlike (dataOps i s.fetchInstr.2) s.fetchInstr.2 m := by
    rw [State.fetchInstr_snd] at hreads ⊢
    exact hreads.right
  constructor
  · rw [step, hfetch', hfetch, hops, Memory.afterOps_append, Memory.afterOps_fetchOps]
    exact exec_setMem hexec hdata
  · rw [hops, stepOps, State.setMem_pc, hbyte, hfetch', hfetch]
    exact congrArg _ (dataOps_setMem hdata)

/-- Settles O56: `step_setMem`, from the same statement of the fetch and of every instruction. -/
theorem stepDependsOnItsReadsAlone : Obligations.StepDependsOnItsReadsAlone := by
  unfold Obligations.StepDependsOnItsReadsAlone
  intro s t mem hstep hreads
  obtain ⟨hstep', hops⟩ := step_setMem hstep hreads
  exact ⟨_, hstep', rfl, hops, rfl⟩

/-! ## The number of bus operations -/

/-- At most two reads and at most two writes. -/
def AtMostTwoEach (ops : List BusOp) : Prop := (readAddrs ops).length ≤ 2 ∧ (writeAddrs ops).length ≤ 2

theorem AtMostTwoEach.nil : AtMostTwoEach [] := ⟨by decide, by decide⟩

theorem AtMostTwoEach.pushOps (s : State) (v : Word) : AtMostTwoEach (pushOps s v) := ⟨Nat.zero_le 2, le_refl 2⟩

theorem AtMostTwoEach.popOps (s : State) : AtMostTwoEach (popOps s) := ⟨le_refl 2, Nat.zero_le 2⟩

/-- One read and one write at most of an 8-bit operand. -/
theorem AtMostTwoEach.operands (s : State) (v : Byte) (src dst : Operand8) :
    AtMostTwoEach (readOps s src ++ writeOps s v dst) := by
  have hread : (readAddrs (readOps s src)).length ≤ 1 ∧ writeAddrs (readOps s src) = [] := by
    cases src <;> simp [readOps, readAddrs, writeAddrs]
  have hwrite : (writeAddrs (writeOps s v dst)).length ≤ 1 ∧ readAddrs (writeOps s v dst) = [] := by
    cases dst <;> simp [writeOps, readAddrs, writeAddrs]
  simp only [AtMostTwoEach, readAddrs_append, writeAddrs_append, hread.2, hwrite.2, List.append_nil, List.nil_append]
  omega

theorem AtMostTwoEach.readOps (s : State) (x : Operand8) : AtMostTwoEach (readOps s x) := by
  simpa [writeOps] using AtMostTwoEach.operands s 0 x (.reg .a)

theorem dataOps_atMostTwoEach (i : Instr) (s : State) : AtMostTwoEach (dataOps i s) := by
  cases i with
  | inr x | dcr x => exact .operands s _ x x
  | mov dst src =>
    match dst, src with
    | .m, .m => exact .nil
    | .m, .reg r => exact .operands s _ (.reg r) .m
    | .reg r, src => rw [dataOps_mov rfl]; exact .operands s _ src (.reg r)
  | mvi x d8 => exact .operands s d8 (.reg .a) x
  | add x | adc x | sub x | sbb x | ana x | xra x | ora x | cmp x =>
    exact .readOps s x
  | push p => exact .pushOps s _
  | call a16 | rst n => exact .pushOps s _
  | pop p | ret | undefRet => exact .popOps s
  | cnz a16 | cz a16 | cnc a16 | cc a16 | cpo a16 | cpe a16 | cp a16 | cm a16 =>
    rw [dataOps, callOps]
    split
    · exact .pushOps s _
    · exact .nil
  | rnz | rz | rnc | rc | rpo | rpe | rp | rm =>
    rw [dataOps, returnOps]
    split
    · exact .popOps s
    · exact .nil
  | _ => simp [AtMostTwoEach, dataOps, popOps, readAddrs, writeAddrs]

theorem opcodeLength_pos (op : Byte) : 1 ≤ opcodeLength op := by
  rcases opcodeLength_cases op with h | h | h <;> omega

/-- Settles O55: the fetch reads one to three bytes, `dataOps_atMostTwoEach` bounds the rest. -/
theorem stepBusOperationsAreBounded : Obligations.StepBusOperationsAreBounded := by
  unfold Obligations.StepBusOperationsAreBounded
  intro s
  obtain ⟨t, hstep⟩ := step_next s
  obtain ⟨i, rest, _, _, hops⟩ := step_cases hstep
  exact ⟨_, _, opcodeLength_pos _, opcodeLength_le _, fetchOps_eq_map s.pc _ ▸ hops,
    dataOps_atMostTwoEach i s.fetchInstr.2⟩

end Sys2Proof.Machine
end

section
/-! The opcode bytes of 30_encoding.md R88 as numbers (log 8), for the statements about one instruction. -/

namespace Sys2Proof

/-- An opcode byte from the numbers in its fields (R83). -/
theorem opByte_eq_ofNat : ∀ (q : BitVec 2) (y z : BitVec 3),
    opByte q y z = BitVec.ofNat 8 (64 * q.toNat + 8 * y.toNat + z.toNat) := by decide

/-- A row of the map whose middle field is an operand code or the number of RST. -/
theorem opByte_middle_row (q : BitVec 2) (y z : BitVec 3) :
    opByte q y z = BitVec.ofNat 8 (64 * q.toNat + z.toNat + 8 * y.toNat) := by
  rw [opByte_eq_ofNat, Nat.add_right_comm]

/-- A pair code stands one bit above the low bit of the middle field (R84). -/
theorem toNat_pairField : ∀ (pp : BitVec 2) (sub : BitVec 1), (pairField pp sub).toNat = 2 * pp.toNat + sub.toNat := by
  decide

/-- A row of the map whose middle field holds a pair code. -/
theorem opByte_pair_row (q : BitVec 2) (pp : BitVec 2) (sub : BitVec 1) (z : BitVec 3) :
    opByte q (pairField pp sub) z = BitVec.ofNat 8 (64 * q.toNat + 8 * sub.toNat + z.toNat + 16 * pp.toNat) := by
  rw [opByte_eq_ofNat, toNat_pairField]
  congr 1
  omega

/-- The bytes of a three-byte instruction as numbers (R87, D1; log 9). -/
theorem format3_eq_ofNat (op : Byte) (v : Word) :
    format3 op v = [op, BitVec.ofNat 8 (v.toNat % 256), BitVec.ofNat 8 (v.toNat / 256)] := by
  rw [format3, ← toNat_lowByte, ← toNat_highByte, BitVec.ofNat_toNat, BitVec.ofNat_toNat, BitVec.setWidth_eq,
    BitVec.setWidth_eq]

end Sys2Proof
end

section
/-! The statements of 41_nop_carry_incdec_adjust.md and of the flag byte of 10_state.md R32. -/

namespace Sys2Proof.Machine

/-! ## The flag byte (R32) -/

theorem Flags.toNat_pack (f : Flags) : f.pack.toNat =
    f.s.toNat * 128 + f.z.toNat * 64 + f.ac.toNat * 16 + f.p.toNat * 4 + 2 + f.cy.toNat := by
  obtain ⟨s, z, ac, p, cy⟩ := f
  revert s z ac p cy
  decide

@[simp] theorem Flags.unpack_pack (f : Flags) : Flags.unpack f.pack = f := by
  obtain ⟨s, z, ac, p, cy⟩ := f
  revert s z ac p cy
  decide

/-- Bits 5, 3 and 1 of a popped byte are ignored (D15, log 20). -/
theorem Flags.pack_unpack : ∀ b : Byte, (Flags.unpack b).pack = (b &&& 0xD5) ||| 0x02 := by decide

/-- Settles O15: the 32 values of the five flags, and the 256 flag bytes. -/
theorem packedFlagsRoundTrip : Obligations.PackedFlagsRoundTrip := by
  unfold Obligations.PackedFlagsRoundTrip
  exact ⟨fun f => ⟨f.toNat_pack, f.unpack_pack⟩, Flags.pack_unpack⟩

/-! ## NOP, STC and CMC (R130 to R132) -/

theorem toNat_not (b : Bool) : (!b).toNat = 1 - b.toNat := by cases b <;> rfl

/-- Settles O16: each arm is an update of CY or nothing. -/
theorem nopAndCarryInstructions : Obligations.NopAndCarryInstructions := by
  unfold Obligations.NopAndCarryInstructions
  exact ⟨rfl, rfl, rfl, fun s => ⟨rfl, rfl, s.setCy (!s.flags.cy), rfl, toNat_not s.flags.cy, rfl⟩⟩

/-! ## INR and DCR (R133 to R136) -/

theorem dec8_r (v : Byte) : (dec8 v).1.toNat = (v.toNat + 255) % 256 := by
  have hv := v.isLt
  have hr := (dec8 v).1.isLt
  have hsucc := dec8_r_succ v
  omega

/-- Settles O18: `State.countTo_spec`, with Inc8 and Dec8 in numbers. -/
theorem incrementAndDecrement : Obligations.IncrementAndDecrement := by
  unfold Obligations.IncrementAndDecrement
  intro x s
  refine ⟨congrArg List.singleton (opByte_middle_row 0 x.code 4),
    congrArg List.singleton (opByte_middle_row 0 x.code 5), ⟨_, rfl, ?inr⟩, ⟨_, rfl, ?dcr⟩⟩
  case inr =>
    obtain ⟨hx, hszp, hac, hrest⟩ := s.countTo_spec x (inc8 (s.operand x))
    rw [hx, hac]
    exact ⟨inc8_r _, hszp, inc8_ac_iff _, hrest⟩
  case dcr =>
    obtain ⟨hx, hszp, hac, hrest⟩ := s.countTo_spec x (dec8 (s.operand x))
    rw [hx, hac]
    exact ⟨dec8_r _, hszp, dec8_ac_iff _, hrest⟩

/-! ## CMA and the rotates (R118, R137, R196 to R199) -/

theorem getLsbD_seven (a : Byte) : a.getLsbD 7 = decide (128 ≤ a.toNat) := by
  revert a
  decide

theorem getLsbD_zero (a : Byte) : a.getLsbD 0 = decide (a.toNat % 2 = 1) := by
  revert a
  decide

theorem rlc8_r : ∀ a : Byte, (rlc8 a).1.toNat = a.toNat * 2 % 256 + a.toNat / 128 := by decide
theorem rrc8_r : ∀ a : Byte, (rrc8 a).1.toNat = a.toNat / 2 + 128 * (a.toNat % 2) := by decide
theorem ral8_r : ∀ (cy : Bool) (a : Byte), (ral8 a cy).1.toNat = a.toNat * 2 % 256 + cy.toNat := by decide
theorem rar8_r : ∀ (cy : Bool) (a : Byte), (rar8 a cy).1.toNat = a.toNat / 2 + 128 * cy.toNat := by decide

/-- The shape of all four rotates: A and CY from the unit's answer, nothing else. -/
theorem State.rotateTo_of_values (s : State) {out : Byte × Bool} {r : Nat} {cy : Bool} (hr : out.1.toNat = r)
    (hcy : out.2 = cy) :
    (s.rotateTo out).a.toNat = r ∧ (s.rotateTo out).flags = { s.flags with cy := cy } ∧
    (s.rotateTo out).sp = s.sp ∧ (s.rotateTo out).pc = s.pc ∧ Frame [.a] [] s (s.rotateTo out) := by
  subst hr hcy
  obtain ⟨ha, hrest⟩ := s.rotateTo_spec out
  exact ⟨by rw [ha], hrest⟩

/-- Settles O19: `State.rotateTo_of_values` with the rotates in numbers. -/
theorem complementAndRotates : Obligations.ComplementAndRotates := by
  unfold Obligations.ComplementAndRotates
  exact ⟨rfl, rfl, rfl, rfl, rfl, fun s =>
    ⟨⟨_, rfl, BitVec.toNat_not, ⟨rfl, rfl, rfl⟩, Frame.setReg s .a _⟩,
      ⟨_, rfl, s.rotateTo_of_values (rlc8_r s.a) (getLsbD_seven s.a)⟩,
      ⟨_, rfl, s.rotateTo_of_values (rrc8_r s.a) (getLsbD_zero s.a)⟩,
      ⟨_, rfl, s.rotateTo_of_values (ral8_r s.flags.cy s.a) (getLsbD_seven s.a)⟩,
      ⟨_, rfl, s.rotateTo_of_values (rar8_r s.flags.cy s.a) (getLsbD_zero s.a)⟩⟩⟩

/-! ## DAA (R116, R138) -/

/-- The first addition of DAA: 6 for a low nibble above 9 or AC. -/
theorem daaLow_r (a : Byte) (ac cy : Bool) :
    (daaLow a ac cy).r.toNat = (a.toNat + if 9 < a.toNat % 16 ∨ ac = true then 6 else 0) % 256 := by
  have ha := a.isLt
  unfold daaLow lowNibble
  split
  · exact BitVec.toNat_ofNat _ 8
  · exact (Nat.mod_eq_of_lt ha).symm

/-- A carry out of bit 7 of the first addition counts as CY (D2). Where it happens the low nibble is above 9. -/
theorem daaLow_cy_iff (a : Byte) (ac cy : Bool) : (daaLow a ac cy).cy = true ↔ cy = true ∨ 250 ≤ a.toNat := by
  have ha := a.isLt
  unfold daaLow lowNibble
  split
  case isTrue =>
    rw [Bool.or_eq_true, decide_eq_true_iff]
    exact or_congr_right (by omega)
  case isFalse hskip =>
    obtain ⟨hlow, _⟩ := not_or.mp hskip
    exact (or_iff_left (by omega)).symm

/-- AC afterwards is the nibble carry of the first addition (D3); AC set on a low nibble of 9 or less is cleared. -/
theorem daaLow_ac_iff (a : Byte) (ac cy : Bool) : (daaLow a ac cy).ac = true ↔ 9 < a.toNat % 16 := by
  unfold daaLow lowNibble
  split
  case isTrue => exact decide_eq_true_iff.trans (by omega)
  case isFalse hskip =>
    obtain ⟨hlow, hac⟩ := not_or.mp hskip
    exact iff_of_false hac hlow

theorem daaHigh_cy_iff (a : Byte) (cy : Bool) : (daaHigh a cy).2 = true ↔ cy = true ∨ 9 < a.toNat / 16 := by
  unfold daaHigh highNibble
  split
  case isTrue =>
    rw [Bool.or_eq_true, decide_eq_true_iff]
    exact or_congr_right (by omega)
  case isFalse hskip =>
    obtain ⟨hhigh, _⟩ := not_or.mp hskip
    exact (or_iff_left hhigh).symm

/-- The second addition of DAA: 0x60 exactly if CY is set after it. -/
theorem daaHigh_r (a : Byte) (cy : Bool) :
    (daaHigh a cy).1.toNat = (a.toNat + if (daaHigh a cy).2 = true then 0x60 else 0) % 256 := by
  have ha := a.isLt
  rw [if_congr ((daaHigh_cy_iff a cy).trans or_comm) rfl rfl]
  unfold daaHigh highNibble
  split
  · exact BitVec.toNat_ofNat _ 8
  · exact (Nat.mod_eq_of_lt ha).symm

theorem daa8_ac_iff (a : Byte) (ac cy : Bool) : (daa8 a ac cy).ac = true ↔ 9 < a.toNat % 16 := daaLow_ac_iff a ac cy

/-- CY after DAA, in the closed form of R116. -/
theorem daa8_cy_iff (a : Byte) (ac cy : Bool) : (daa8 a ac cy).cy = true ↔
    cy = true ∨ 9 < a.toNat / 16 ∨ (9 ≤ a.toNat / 16 ∧ 9 < a.toNat % 16) := by
  have ha := a.isLt
  have hhigh : (daa8 a ac cy).cy = true ↔ _ := daaHigh_cy_iff _ _
  rw [hhigh, daaLow_cy_iff, daaLow_r, or_assoc]
  refine or_congr_right ?_
  split
  case isTrue => omega
  case isFalse hskip =>
    obtain ⟨hlow, _⟩ := not_or.mp hskip
    omega

theorem daa8_r (a : Byte) (ac cy : Bool) : (daa8 a ac cy).r.toNat =
    (a.toNat + (if 9 < a.toNat % 16 ∨ ac = true then 6 else 0)
      + (if (daa8 a ac cy).cy = true then 0x60 else 0)) % 256 := by
  have hhigh : (daa8 a ac cy).r.toNat = _ := daaHigh_r _ _
  rw [hhigh, daaLow_r, Nat.mod_add_mod]
  rfl

/-- Settles O20: `State.accumulate_spec` with the closed forms of `daa8`. -/
theorem decimalAdjustClosedForm : Obligations.DecimalAdjustClosedForm := by
  unfold Obligations.DecimalAdjustClosedForm
  refine ⟨rfl, fun s => ⟨_, rfl, ?_⟩⟩
  obtain ⟨ha, hszp, hac, hcy, hrest⟩ := s.accumulate_spec (daa8 s.a s.flags.ac s.flags.cy)
  rw [hac, hcy, ha]
  exact ⟨daa8_cy_iff _ _ _, daa8_ac_iff _ _ _, daa8_r _ _ _, hszp, hrest⟩

/-! ## Packed decimal addition (95_test_vectors.md) -/

/-- A packed decimal byte from its digits. -/
theorem isBcd_of_digits {v : Byte} {high low : Nat} (hv : v.toNat = 16 * high + low) (hhigh : high ≤ 9)
    (hlow : low ≤ 9) : IsBcd v ∧ bcdValue v = 10 * high + low := by
  unfold IsBcd bcdValue
  omega

/-- Adding 6 to a low sum of 10 or more and 0x60 to a sum of 100 or more leaves the decimal digits of the sum. -/
theorem decimal_correction : ∀ high < 19, ∀ low < 19,
    (16 * high + low + (if 10 ≤ low then 6 else 0) + (if 100 ≤ 10 * high + low then 0x60 else 0)) % 256 =
      16 * ((high + low / 10) % 10) + low % 10 := by decide

/-- DAA corrects the sum of two packed decimal bytes: the low digits carry into the high ones, and those into CY. -/
theorem daa8_add8_of_bcd {a b : Byte} (ha : IsBcd a) (hb : IsBcd b) {sum out : AluOut} (hsum : sum = add8 a b false)
    (hout : out = daa8 sum.r sum.ac sum.cy) :
    IsBcd out.r ∧ bcdValue out.r = (bcdValue a + bcdValue b) % 100 ∧
      (out.cy = true ↔ 99 < bcdValue a + bcdValue b) := by
  obtain ⟨hahigh, halow⟩ := ha
  obtain ⟨hbhigh, hblow⟩ := hb
  generalize hhigh : a.toNat / 16 + b.toNat / 16 = high
  generalize hlow : a.toNat % 16 + b.toNat % 16 = low
  have habsum : a.toNat + b.toNat = 16 * high + low := by omega
  have hvalue : bcdValue a + bcdValue b = 10 * high + low := by rw [bcdValue, bcdValue]; omega
  have hr : sum.r.toNat = (16 * high + low) % 256 := by rw [hsum, add8_r, Bool.toNat_false, Nat.add_zero, habsum]
  have hfix : 9 < sum.r.toNat % 16 ∨ sum.ac = true ↔ 10 ≤ low := by
    rw [hsum, add8_ac_iff, Bool.toNat_false, hlow, ← hsum, hr]
    omega
  have hcy : out.cy = true ↔ 100 ≤ 10 * high + low := by
    rw [hout, daa8_cy_iff, hr, hsum, add8_cy_iff, Bool.toNat_false, Nat.add_zero, habsum]
    omega
  have hdigits : out.r.toNat = 16 * ((high + low / 10) % 10) + low % 10 := by
    rw [hout, daa8_r, ← hout, if_congr hfix rfl rfl, if_congr hcy rfl rfl, hr, Nat.add_assoc, Nat.mod_add_mod,
      ← Nat.add_assoc, decimal_correction high (by omega) low (by omega)]
  obtain ⟨hbcd, hdecimal⟩ := isBcd_of_digits hdigits (by omega) (by omega)
  exact ⟨hbcd, by rw [hdecimal, hvalue]; omega, by rw [hcy, hvalue]; omega⟩

/-- Settles O21: `daa8_add8_of_bcd`, where both instructions accumulate the answer of a unit. -/
theorem bcdAdditionIsDecimal : Obligations.BcdAdditionIsDecimal := by
  unfold Obligations.BcdAdditionIsDecimal
  exact ⟨fun x s ha hx => ⟨_, _, rfl, rfl, daa8_add8_of_bcd ha hx rfl rfl⟩,
    fun d8 s ha hd8 => ⟨_, _, rfl, rfl, daa8_add8_of_bcd ha hd8 rfl rfl⟩⟩

end Sys2Proof.Machine
end

section
/-! The statements of 42_move_indirect.md, 43_accumulator_alu_rotate.md and the immediate forms of
45_immediate_direct.md section 3. -/

namespace Sys2Proof.Machine

/-! ## Moves (R160 to R167) -/

theorem encode_mov (dst src : Operand8) :
    encode (.mov dst src) = [BitVec.ofNat 8 (0x40 + 8 * dst.code.toNat + src.code.toNat)] :=
  congrArg List.singleton (opByte_eq_ofNat 1 dst.code src.code)

/-- Settles O22: `State.setOperand_spec`, with the old state's operand. -/
theorem movCopiesTheOperand : Obligations.MovCopiesTheOperand := by
  unfold Obligations.MovCopiesTheOperand
  intro dst src s hwf
  obtain ⟨hdst, hframe, hcontrol⟩ := s.setOperand_spec dst (s.operand src)
  exact ⟨encode_mov dst src, _, exec_mov hwf s, hdst, hcontrol, hframe⟩

/-- Settles O24: a write to, and a read from, `State.indexAddr`. -/
theorem staxAndLdax : Obligations.StaxAndLdax := by
  unfold Obligations.StaxAndLdax
  refine ⟨rfl, rfl, rfl, rfl, fun p s => ⟨s.indexAddr p, by cases p <;> rfl,
    ⟨_, rfl, State.read8_write8_self s _ s.a, ⟨rfl, rfl, rfl⟩, Frame.write8 s _ s.a⟩,
    ⟨_, rfl, rfl, ⟨rfl, rfl, rfl⟩, Frame.setReg s .a _⟩⟩⟩

/-! ## Subtracting from A (R113, R119, R184) -/

theorem sub8_cy_iff (a b : Byte) (bin : Bool) : (sub8 a b bin).cy = true ↔ a.toNat < b.toNat + bin.toNat :=
  decide_eq_true_iff

/-- The borrow is what the exact difference lacks (R119). -/
theorem sub8_exact (a b : Byte) (bin : Bool) :
    (a.toNat : Int) - b.toNat - bin.toNat = (sub8 a b bin).r.toNat - 256 * (sub8 a b bin).cy.toNat := by
  have ha := a.isLt
  have hb := b.isLt
  have hbin := bin.toNat_le
  have hr := sub8_r a b bin
  have hcy : (sub8 a b bin).cy = decide (a.toNat < b.toNat + bin.toNat) := rfl
  by_cases hborrow : a.toNat < b.toNat + bin.toNat
  · rw [hcy, decide_eq_true hborrow, Bool.toNat_true]
    omega
  · rw [hcy, decide_eq_false hborrow, Bool.toNat_false]
    omega

/-- Without a borrow in, the result is the difference of the bytes. -/
theorem sub8_r_false (a b : Byte) : (sub8 a b false).r = a - b := by
  apply BitVec.eq_of_toNat_eq
  have hb := b.isLt
  rw [sub8_r, BitVec.toNat_sub, Bool.toNat_false]
  omega

/-- Accumulating the answer of Sub8 is a subtraction from A, whatever the operand byte and the borrow are. -/
theorem State.accumulate_sub8 (s : State) (x : Byte) (bin : Bool) :
    Subtracted s (s.accumulate (sub8 s.a x bin)) x bin := by
  obtain ⟨ha, hszp, hac, hcy, hsp, hpc, hframe⟩ := s.accumulate_spec (sub8 s.a x bin)
  refine ⟨?exact, ?szp, ⟨?borrow, ?nibbleBorrow⟩, hsp, hpc, hframe⟩
  case exact => rw [ha, hcy, sub8_exact]
  case szp => rwa [ha]
  case borrow => rw [hcy, sub8_cy_iff]
  case nibbleBorrow => rw [hac, sub8_ac_iff]

/-- Comparing sets the flags of the difference (R194). -/
theorem State.compareFlags_compared (s : State) (x : Byte) : Compared s (s.compareFlags x) x := by
  obtain ⟨hszp, hac, hcy, hsp, hpc, hframe⟩ := s.compareFlags_spec x
  rw [sub8_r_false] at hszp
  refine ⟨hszp, ?zero, ⟨?borrow, ?nibbleBorrow⟩, hsp, hpc, hframe⟩
  case zero =>
    obtain ⟨_, hz, _⟩ := hszp
    have hs := s.a.isLt
    have hx := x.isLt
    rw [hz, BitVec.toNat_sub, ← BitVec.toNat_inj]
    omega
  case borrow => rw [hcy, sub8_cy_iff]
  case nibbleBorrow => rw [hac, sub8_ac_iff]

/-- Settles O25: `State.accumulate_add8` without and with the carry. -/
theorem addAndAddWithCarry : Obligations.AddAndAddWithCarry := by
  unfold Obligations.AddAndAddWithCarry
  exact fun x s => ⟨congrArg List.singleton (opByte_eq_ofNat 2 0 x.code),
    congrArg List.singleton (opByte_eq_ofNat 2 1 x.code),
    ⟨_, rfl, s.accumulate_add8 (s.operand x) false⟩, ⟨_, rfl, s.accumulate_add8 (s.operand x) s.flags.cy⟩⟩

/-- Settles O26: `State.accumulate_sub8` without and with the borrow. -/
theorem subtractAndSubtractWithBorrow : Obligations.SubtractAndSubtractWithBorrow := by
  unfold Obligations.SubtractAndSubtractWithBorrow
  exact fun x s => ⟨congrArg List.singleton (opByte_eq_ofNat 2 2 x.code),
    congrArg List.singleton (opByte_eq_ofNat 2 3 x.code),
    ⟨_, rfl, s.accumulate_sub8 (s.operand x) false⟩, ⟨_, rfl, s.accumulate_sub8 (s.operand x) s.flags.cy⟩⟩

/-- Settles O27: `State.compareFlags_compared`; both instructions take the flags of one answer. -/
theorem compareSetsTheFlagsOfSubtract : Obligations.CompareSetsTheFlagsOfSubtract := by
  unfold Obligations.CompareSetsTheFlagsOfSubtract
  exact ⟨fun x s => ⟨congrArg List.singleton (opByte_eq_ofNat 2 7 x.code),
      _, _, rfl, rfl, s.compareFlags_compared (s.operand x), rfl⟩,
    fun d8 s => ⟨rfl, _, _, rfl, rfl, s.compareFlags_compared d8, rfl⟩⟩

/-- Settles O28: `State.accumulateLogic_spec`. -/
theorem logicClearsTheCarries : Obligations.LogicClearsTheCarries := by
  unfold Obligations.LogicClearsTheCarries
  exact fun x s => ⟨congrArg List.singleton (opByte_eq_ofNat 2 4 x.code),
    congrArg List.singleton (opByte_eq_ofNat 2 5 x.code), congrArg List.singleton (opByte_eq_ofNat 2 6 x.code),
    ⟨_, rfl, s.accumulateLogic_spec _⟩, ⟨_, rfl, s.accumulateLogic_spec _⟩, ⟨_, rfl, s.accumulateLogic_spec _⟩⟩

/-! ## The immediate forms (R267 to R272) -/

/-- Settles O37: the laws of the register forms, with the operand byte. -/
theorem immediateArithmetic : Obligations.ImmediateArithmetic := by
  unfold Obligations.ImmediateArithmetic
  exact fun d8 s => ⟨rfl, rfl, rfl, ⟨_, rfl, s.accumulate_add8 d8 s.flags.cy⟩,
    ⟨_, rfl, s.accumulate_sub8 d8 false⟩, ⟨_, rfl, s.accumulate_sub8 d8 s.flags.cy⟩⟩

/-- Settles O38: `State.accumulateLogic_spec`, with the operand byte. -/
theorem immediateLogic : Obligations.ImmediateLogic := by
  unfold Obligations.ImmediateLogic
  exact fun d8 s => ⟨rfl, rfl, rfl, ⟨_, rfl, s.accumulateLogic_spec _⟩, ⟨_, rfl, s.accumulateLogic_spec _⟩,
    ⟨_, rfl, s.accumulateLogic_spec _⟩⟩

end Sys2Proof.Machine
end

section
/-! The statements of 44_stack_pair.md, and of the loads, stores and direct accesses of 45_immediate_direct.md. -/

namespace Sys2Proof.Machine

/-! ## Sixteen-bit stores, byte by byte (R14, R218) -/

theorem word_sub_one_ne_sub_two (w : Word) : w - 1 ≠ w - 2 := by
  bv_omega

theorem State.write16_read8_low (s : State) (addr v : Word) : (s.write16 addr v).read8 addr = lowByte v := by
  rw [(s.write16_spec addr v).1, if_neg (word_succ_ne addr).symm, if_pos rfl]

theorem State.write16_read8_high (s : State) (addr v : Word) : (s.write16 addr v).read8 (addr + 1) = highByte v := by
  rw [(s.write16_spec addr v).1, if_pos rfl]

theorem State.push16_read8_high (s : State) (v : Word) : (s.push16 v).read8 (s.sp - 1) = highByte v := by
  rw [(s.push16_spec v).1, if_neg (word_sub_one_ne_sub_two s.sp), if_pos rfl]

theorem State.push16_read8_low (s : State) (v : Word) : (s.push16 v).read8 (s.sp - 2) = lowByte v := by
  rw [(s.push16_spec v).1, if_pos rfl]

/-! ## PUSH and POP (R218 to R227) -/

theorem State.highByte_stackPair (s : State) (p : StackPair) : highByte (s.stackPair p) = stackHigh s p := by
  rw [State.stackPair_eq, highByte_joinBytes]

theorem State.lowByte_stackPair (s : State) (p : StackPair) : lowByte (s.stackPair p) = stackLow s p := by
  rw [State.stackPair_eq, lowByte_joinBytes]

/-- Settles O29: `State.push16_spec`, with the pair by its halves. -/
theorem pushStoresThePair : Obligations.PushStoresThePair := by
  unfold Obligations.PushStoresThePair
  intro p s
  obtain ⟨_, hframe, hsp, hpc, hflags⟩ := s.push16_spec (s.stackPair p)
  exact ⟨congrArg List.singleton (opByte_pair_row 3 p.code 0 5), _, rfl,
    by rw [State.push16_read8_high, State.highByte_stackPair],
    by rw [State.push16_read8_low, State.lowByte_stackPair], hsp, hpc, hflags, hframe⟩

theorem getLsbD_iff (b : Byte) (k : Nat) : b.getLsbD k = true ↔ b.toNat / 2 ^ k % 2 = 1 := by
  rw [BitVec.getLsbD, Nat.testBit_eq_decide_div_mod_eq, decide_eq_true_iff]

/-- Everything POP does (R224 to R227). -/
theorem State.pop_spec (s : State) (p : StackPair) {t : State} (ht : t = s.pop16.2.setStackPair p s.pop16.1) :
    stackHigh t p = s.read8 (s.sp + 1) ∧ t.sp = s.sp + 2 ∧ t.pc = s.pc ∧ Frame (stackRegs p) [] s t ∧
      (if p = .psw then t.flags = Flags.unpack (s.read8 s.sp)
        else stackLow t p = s.read8 s.sp ∧ t.flags = s.flags) := by
  obtain ⟨hhigh, hsp, hpc, hframe, hlow⟩ := s.pop16.2.setStackPair_spec p s.pop16.1
  rw [← ht] at hhigh hsp hpc hframe hlow
  rw [State.pop16_fst, highByte_joinBytes] at hhigh
  rw [State.pop16_fst, lowByte_joinBytes] at hlow
  exact ⟨hhigh, hsp, hpc, ((Frame.setSp s _).mono (by simp) (by simp)).trans hframe, hlow⟩

/-- Settles O30: `State.pop_spec`; the flags of the PSW are bits of the popped byte. -/
theorem popLoadsThePair : Obligations.PopLoadsThePair := by
  unfold Obligations.PopLoadsThePair
  intro p s
  obtain ⟨hhigh, hsp, hpc, hframe, hlow⟩ := s.pop_spec p rfl
  refine ⟨congrArg List.singleton (opByte_pair_row 3 p.code 0 1), _, rfl, hhigh, hsp, hpc, hframe, ?_⟩
  split at hlow
  case isTrue hpsw =>
    rw [if_pos hpsw, hlow]
    exact ⟨getLsbD_iff _ 7, getLsbD_iff _ 6, getLsbD_iff _ 4, getLsbD_iff _ 2,
      (getLsbD_iff _ 0).trans (by rw [pow_zero, Nat.div_one])⟩
  case isFalse hpsw => rwa [if_neg hpsw]

/-- A pop from any state with the same SP and memory yields the word that was pushed (R218, R219). -/
theorem State.pop16_after_push16 {s w : State} {v : Word} (hsp : w.sp = (s.push16 v).sp)
    (hmem : ∀ addr, w.read8 addr = (s.push16 v).read8 addr) : w.pop16.1 = v ∧ w.pop16.2.sp = s.sp := by
  have hlow : w.sp = s.sp - 2 := hsp
  have hhigh : s.sp - 2 + 1 = s.sp - 1 := by bv_omega
  have htop : s.sp - 2 + 2 = s.sp := BitVec.sub_add_cancel s.sp 2
  rw [State.pop16_fst, State.pop16_snd, State.setSp_sp, hlow, hhigh, htop, hmem, hmem, State.push16_read8_high,
    State.push16_read8_low, joinBytes_high_low]
  exact ⟨rfl, rfl⟩

/-- A pop of the word that is the pair of `s` loads the pair of `s`. -/
theorem State.setStackPair_stackPair (w s : State) (p : StackPair) {u : State}
    (hu : u = w.setStackPair p (s.stackPair p)) :
    stackHigh u p = stackHigh s p ∧ stackLow u p = stackLow s p ∧ (p = .psw → u.flags = s.flags) := by
  subst hu
  obtain ⟨hhigh, _, _, _, hlow⟩ := w.setStackPair_spec p (s.stackPair p)
  rw [State.highByte_stackPair] at hhigh
  rw [State.lowByte_stackPair] at hlow
  refine ⟨hhigh, ?_⟩
  split at hlow
  case isTrue hpsw =>
    subst hpsw
    have hflags := hlow.trans s.flags.unpack_pack
    exact ⟨congrArg Flags.pack hflags, fun _ => hflags⟩
  case isFalse hpsw => exact ⟨hlow.1, fun h => absurd h hpsw⟩

/-- Settles O31: `State.pop16_after_push16`, then the pair is loaded from the popped word. -/
theorem pushThenPopRestoresThePair : Obligations.PushThenPopRestoresThePair := by
  unfold Obligations.PushThenPopRestoresThePair
  refine ⟨fun s => ⟨by rw [State.pop16_fst, toNat_joinBytes], rfl, fun p => rfl⟩, fun p s => ⟨_, rfl, ?_⟩⟩
  intro w hsp hmem
  obtain ⟨hword, hspAfter⟩ := State.pop16_after_push16 hsp hmem
  obtain ⟨_, hspKept, _, ⟨_, hkeeps, _⟩, _⟩ := w.pop_spec p rfl
  have hload := State.setStackPair_stackPair w.pop16.2 s p (congrArg _ hword)
  obtain ⟨hhigh, hlow, hflags⟩ := hload
  exact ⟨_, rfl, hspKept.trans hspAfter, hhigh, hlow, hflags, fun addr h => (hkeeps addr h).trans (hmem addr)⟩

/-! ## Pairs: LXI, INX, DCX, DAD (R228 to R239, R260 to R263) -/

/-- Loading a pair leaves SP, where it is not the pair, PC, the flags and all else. -/
theorem State.setPair_loads (s : State) (p : Pair) (v : Word) :
    (s.setPair p v).pair p = v ∧ (p ≠ .sp → (s.setPair p v).sp = s.sp) ∧ (s.setPair p v).pc = s.pc ∧
      (s.setPair p v).flags = s.flags ∧ Frame (pairRegs p) [] s (s.setPair p v) := by
  obtain ⟨hpair, hframe, hsp, hpc, hflags⟩ := s.setPair_spec p v
  exact ⟨hpair, fun hp => by rw [hsp, if_neg hp], hpc, hflags, hframe⟩

/-- Settles O32: HL is loaded with the sum of Add16, CY with its carry. -/
theorem dadAddsToHl : Obligations.DadAddsToHl := by
  unfold Obligations.DadAddsToHl
  intro p s
  refine ⟨congrArg List.singleton (opByte_pair_row 0 p.code 1 1), _, rfl, ?_, rfl, rfl, rfl, ?_⟩
  · rw [State.hl_setCy, State.hl_setPair_hl, add16_r]
  · obtain ⟨_, hframe, _⟩ := s.setPair_spec .hl (add16 s.hl (s.pair p)).1
    exact hframe.trans ((Frame.setCy _ _).mono (by simp) (by simp))

/-- Settles O33: `State.setPair_loads` with the next and the previous word. -/
theorem pairIncrementAndDecrement : Obligations.PairIncrementAndDecrement := by
  unfold Obligations.PairIncrementAndDecrement
  intro p s
  refine ⟨congrArg List.singleton (opByte_pair_row 0 p.code 0 3),
    congrArg List.singleton (opByte_pair_row 0 p.code 1 3), ⟨_, rfl, ?inx⟩, ⟨_, rfl, ?dcx⟩⟩
  case inx =>
    obtain ⟨hpair, hrest⟩ := s.setPair_loads p (s.pair p + 1)
    exact ⟨by rw [hpair, BitVec.toNat_add]; rfl, hrest⟩
  case dcx =>
    obtain ⟨hpair, hrest⟩ := s.setPair_loads p (s.pair p - 1)
    exact ⟨by rw [hpair]; bv_omega, hrest⟩

/-- Settles O35: `State.setPair_loads` and `State.setOperand_spec`. -/
theorem loadImmediate : Obligations.LoadImmediate := by
  unfold Obligations.LoadImmediate
  refine ⟨fun p d16 s => ⟨?lxi, _, rfl, s.setPair_loads p d16⟩, fun x d8 s => ⟨?mvi, _, rfl, ?_⟩⟩
  case lxi => rw [encode, format3_eq_ofNat, opByte_pair_row]; rfl
  case mvi => rw [encode, opByte_middle_row]; rfl
  obtain ⟨hx, hframe, hcontrol⟩ := s.setOperand_spec x d8
  exact ⟨hx, hcontrol, hframe⟩

/-! ## Exchanges (R240 to R242) -/

/-- Settles O34: the halves of each pair, read off the updates. -/
theorem exchangesAndSphl : Obligations.ExchangesAndSphl := by
  unfold Obligations.ExchangesAndSphl
  refine ⟨rfl, rfl, rfl, fun s => ⟨⟨_, rfl, ?xchg⟩, ⟨_, rfl, ?xthl⟩, _, rfl, s.toNat_hl, rfl⟩⟩
  case xchg =>
    obtain ⟨_, hframeHl, _⟩ := s.setPair_spec .hl s.de
    obtain ⟨_, hframeDe, _⟩ := (s.setPair .hl s.de).setPair_spec .de s.hl
    exact ⟨highByte_joinBytes s.d s.e, lowByte_joinBytes s.d s.e, s.highByte_hl, s.lowByte_hl, ⟨rfl, rfl, rfl⟩,
      (hframeHl.mono (by decide) (by simp)).trans (hframeDe.mono (by decide) (by simp))⟩
  case xthl =>
    obtain ⟨_, hframeMem, hspMem, hpcMem, hflagsMem⟩ := s.write16_spec s.sp s.hl
    obtain ⟨_, hframeHl, hspHl, hpcHl, hflagsHl⟩ := (s.write16 s.sp s.hl).setPair_spec .hl (s.read16 s.sp)
    exact ⟨lowByte_joinBytes _ _, highByte_joinBytes _ _, (s.write16_read8_low s.sp s.hl).trans s.lowByte_hl,
      (s.write16_read8_high s.sp s.hl).trans s.highByte_hl,
      ⟨hspHl.trans hspMem, hpcHl.trans hpcMem, hflagsHl.trans hflagsMem⟩,
      (hframeMem.mono (by simp) (by simp)).trans (hframeHl.mono (by decide) (by simp))⟩

/-! ## Direct addressing (R274 to R277) -/

/-- Settles O39: a write at, and a read from, the address. -/
theorem directAccumulatorAccess : Obligations.DirectAccumulatorAccess := by
  unfold Obligations.DirectAccumulatorAccess
  exact fun a16 s => ⟨format3_eq_ofNat 0x32 a16, format3_eq_ofNat 0x3A a16,
    ⟨_, rfl, s.read8_write8_self a16 s.a, ⟨rfl, rfl, rfl⟩, Frame.write8 s a16 s.a⟩,
    ⟨_, rfl, rfl, ⟨rfl, rfl, rfl⟩, Frame.setReg s .a _⟩⟩

/-- Settles O40: `State.write16_spec`, and HL loaded with the word at the address. -/
theorem directPairAccess : Obligations.DirectPairAccess := by
  unfold Obligations.DirectPairAccess
  intro a16 s
  obtain ⟨_, hframeMem, hcontrol⟩ := s.write16_spec a16 s.hl
  obtain ⟨_, hframeHl, _⟩ := s.setPair_spec .hl (s.read16 a16)
  exact ⟨format3_eq_ofNat 0x22 a16, format3_eq_ofNat 0x2A a16,
    ⟨_, rfl, (s.write16_read8_low a16 s.hl).trans s.lowByte_hl, (s.write16_read8_high a16 s.hl).trans s.highByte_hl,
      hcontrol, hframeMem⟩,
    ⟨_, rfl, lowByte_joinBytes _ _, highByte_joinBytes _ _, ⟨rfl, rfl, rfl⟩, hframeHl⟩⟩

end Sys2Proof.Machine
end

section
/-! The statements of 46_control_transfer.md and 47_interrupt_io_halt.md. -/

namespace Sys2Proof.Machine

/-! ## Jumps (R300 to R309, R373) -/

/-- Settles O41: each sets PC. -/
theorem unconditionalJumps : Obligations.UnconditionalJumps := by
  unfold Obligations.UnconditionalJumps
  exact fun a16 s => ⟨format3_eq_ofNat 0xC3 a16, format3_eq_ofNat 0xCB a16, rfl, rfl, rfl, _, rfl, s.toNat_hl, rfl⟩

theorem State.next_jumpIf (s : State) (k : Cond) (target : Word) : (.next (s.jumpIf k target) : Result) =
    .next { s with pc := if condHolds k s.flags = true then target else s.pc } := by
  rw [State.jumpIf]
  split <;> rfl

/-- Settles O42: `State.next_jumpIf` in each of the eight rows. -/
theorem conditionalJumps : Obligations.ConditionalJumps := by
  unfold Obligations.ConditionalJumps
  intro a16 s
  simp only [List.forall_mem_cons]
  exact ⟨⟨format3_eq_ofNat 0xC2 a16, s.next_jumpIf .nz a16⟩, ⟨format3_eq_ofNat 0xCA a16, s.next_jumpIf .z a16⟩,
    ⟨format3_eq_ofNat 0xD2 a16, s.next_jumpIf .nc a16⟩, ⟨format3_eq_ofNat 0xDA a16, s.next_jumpIf .c a16⟩,
    ⟨format3_eq_ofNat 0xE2 a16, s.next_jumpIf .po a16⟩, ⟨format3_eq_ofNat 0xEA a16, s.next_jumpIf .pe a16⟩,
    ⟨format3_eq_ofNat 0xF2 a16, s.next_jumpIf .p a16⟩, ⟨format3_eq_ofNat 0xFA a16, s.next_jumpIf .m a16⟩,
    List.forall_mem_nil _⟩

/-! ## Calls (R310 to R318, R328) -/

theorem State.callTo_calledTo (s : State) (target : Word) : CalledTo s (s.callTo target) target := by
  obtain ⟨_, hframe, hsp, hpc, hflags⟩ := s.callTo_spec target
  exact ⟨s.push16_read8_high s.pc, s.push16_read8_low s.pc, hsp, hpc, hflags, hframe⟩

/-- RST n goes to `8 * n` (R328). -/
theorem rst_target : ∀ n : BitVec 3, n.setWidth 16 <<< 3 = BitVec.ofNat 16 (8 * n.toNat) := by decide

/-- Settles O43: `State.callTo_calledTo`. -/
theorem callAndRestart : Obligations.CallAndRestart := by
  unfold Obligations.CallAndRestart
  exact ⟨fun a16 s => ⟨format3_eq_ofNat 0xCD a16, _, rfl, s.callTo_calledTo a16⟩,
    fun n s => ⟨congrArg List.singleton (opByte_middle_row 3 n 7), _, rfl, rst_target n ▸ s.callTo_calledTo _⟩⟩

theorem State.callIf_outcome (s : State) (k : Cond) (target : Word) :
    ∃ t, (.next (s.callIf k target) : Result) = .next t ∧
      (condHolds k s.flags = true → CalledTo s t target) ∧ (condHolds k s.flags = false → t = s) := by
  refine ⟨_, rfl, fun hk => ?taken, fun hk => ?notTaken⟩
  case taken => rw [State.callIf, if_pos hk]; exact s.callTo_calledTo target
  case notTaken => rw [State.callIf, if_neg (by simp [hk])]

/-- Settles O44: `State.callIf_outcome` in each of the eight rows. -/
theorem conditionalCalls : Obligations.ConditionalCalls := by
  unfold Obligations.ConditionalCalls
  intro a16 s
  simp only [List.forall_mem_cons]
  exact ⟨⟨format3_eq_ofNat 0xC4 a16, s.callIf_outcome .nz a16⟩, ⟨format3_eq_ofNat 0xCC a16, s.callIf_outcome .z a16⟩,
    ⟨format3_eq_ofNat 0xD4 a16, s.callIf_outcome .nc a16⟩, ⟨format3_eq_ofNat 0xDC a16, s.callIf_outcome .c a16⟩,
    ⟨format3_eq_ofNat 0xE4 a16, s.callIf_outcome .po a16⟩, ⟨format3_eq_ofNat 0xEC a16, s.callIf_outcome .pe a16⟩,
    ⟨format3_eq_ofNat 0xF4 a16, s.callIf_outcome .p a16⟩, ⟨format3_eq_ofNat 0xFC a16, s.callIf_outcome .m a16⟩,
    List.forall_mem_nil _⟩

/-! ## Returns (R319 to R327) -/

/-- `t` is `s` after a return: PC popped, SP moved by 2, nothing else. -/
def Returned (s t : State) : Prop :=
  t.pc.toNat = (s.read8 (s.sp + 1)).toNat * 256 + (s.read8 s.sp).toNat ∧ t.sp = s.sp + 2 ∧
    { t with pc := s.pc, sp := s.sp } = s

theorem State.returnToCaller_returned (s : State) : Returned s s.returnToCaller :=
  ⟨toNat_joinBytes _ _, rfl, rfl⟩

theorem State.returnIf_outcome (s : State) (k : Cond) : ∃ t, (.next (s.returnIf k) : Result) = .next t ∧
    (condHolds k s.flags = false → t = s) ∧ (condHolds k s.flags = true → Returned s t) := by
  refine ⟨_, rfl, fun hk => ?notTaken, fun hk => ?taken⟩
  case taken => rw [State.returnIf, if_pos hk]; exact s.returnToCaller_returned
  case notTaken => rw [State.returnIf, if_neg (by simp [hk])]

/-- Settles O45: RET, then `State.returnIf_outcome` in each of the eight rows. -/
theorem returns : Obligations.Returns := by
  unfold Obligations.Returns
  intro s
  simp only [List.forall_mem_cons]
  exact ⟨⟨rfl, _, rfl, nofun, fun _ => s.returnToCaller_returned⟩,
    ⟨rfl, s.returnIf_outcome .nz⟩, ⟨rfl, s.returnIf_outcome .z⟩, ⟨rfl, s.returnIf_outcome .nc⟩,
    ⟨rfl, s.returnIf_outcome .c⟩, ⟨rfl, s.returnIf_outcome .po⟩, ⟨rfl, s.returnIf_outcome .pe⟩,
    ⟨rfl, s.returnIf_outcome .p⟩, ⟨rfl, s.returnIf_outcome .m⟩, List.forall_mem_nil _⟩

theorem exec_call_or_rst {i : Instr} (s : State) (hi : (∃ a16, i = .call a16) ∨ (∃ n, i = .rst n)) :
    ∃ target, exec i s = .next (s.callTo target) := by
  rcases hi with ⟨a16, rfl⟩ | ⟨n, rfl⟩
  · exact ⟨_, rfl⟩
  · exact ⟨_, rfl⟩

/-- Settles O46: a return pops the word that the call pushed, `State.pop16_after_push16`. -/
theorem callThenReturnComesBack : Obligations.CallThenReturnComesBack := by
  unfold Obligations.CallThenReturnComesBack
  intro i s hi
  obtain ⟨target, hexec⟩ := exec_call_or_rst s hi
  exact ⟨_, hexec, fun w hsp hmem => ⟨_, rfl, State.pop16_after_push16 hsp hmem⟩⟩

/-! ## EI, DI, IN and OUT (R350 to R353) -/

/-- Settles O47: each arm is an update of INTE. -/
theorem interruptFlipFlopInstructions : Obligations.InterruptFlipFlopInstructions := by
  unfold Obligations.InterruptFlipFlopInstructions
  exact ⟨rfl, rfl, fun s => ⟨rfl, rfl⟩⟩

/-- Settles O48: the two seams, `State.portIn_cases` and `State.portOut_cases`. -/
theorem portInstructions : Obligations.PortInstructions := by
  unfold Obligations.PortInstructions
  refine fun port s => ⟨rfl, rfl, ⟨_, rfl, ?_⟩, ⟨_, rfl, ?_⟩⟩
  · rcases s.portIn_cases port with ⟨hseam, hport⟩ | ⟨hseam, hport⟩
    · rw [hport]
      exact ⟨fun _ => rfl, fun hwired => (nomatch hseam.symm.trans hwired), rfl⟩
    · rw [hport]
      exact ⟨fun hstub => (nomatch hseam.symm.trans hstub), fun _ => ⟨rfl, rfl⟩, rfl⟩
  · rcases s.portOut_cases port with ⟨hseam, hport⟩ | ⟨hseam, hport⟩
    · rw [hport]
      exact ⟨fun _ => rfl, fun hwired => (nomatch hseam.symm.trans hwired), rfl⟩
    · rw [hport]
      exact ⟨fun hstub => (nomatch hseam.symm.trans hstub), fun _ => rfl, rfl⟩

/-! ## HLT (R354, R434) -/

/-- A step at HLT moves PC past the byte and back onto it. -/
theorem step_of_parked {s : State} (hs : s.Parked) : step s = .next s := by
  have hstep : step s = exec .hlt (s.setPc (s.pc + 1)) :=
    step_of_decode_one_byte (rest := []) (by rw [hs]; rfl) (by rw [hs]; rfl)
  have hback : s.pc + 1 - 1 = s.pc := BitVec.add_sub_cancel s.pc 1
  rw [hstep]
  exact congrArg (fun v => Host.Outcome.next (s.setPc v)) hback

/-- A machine stays where its step leads back to, however many steps it makes. -/
theorem run_of_step_self (M : Host.Core) {s : M.State} (hs : M.step s = .next s) (n : Nat) : M.run n s = .next s := by
  induction n with
  | zero => rfl
  | succ n ih => rw [run_succ, hs]; exact ih

theorem toNat_sub_one (w : Word) : (w - 1).toNat = (w.toNat + 65535) % 65536 := by bv_omega

/-- Settles O49: `step_of_parked`, by induction on the number of steps. -/
theorem haltParks : Obligations.HaltParks := by
  unfold Obligations.HaltParks
  exact ⟨rfl, fun s => ⟨_, rfl, toNat_sub_one s.pc, rfl⟩,
    fun s n hs => run_of_step_self Sys2Proof.core (step_of_parked hs) n⟩

/-! ## Construction -/

/-- Settles O9: construction keeps the memory it is given; reset is given none. -/
theorem resetMeetsTheInvariant : Obligations.ResetMeetsTheInvariant := by
  unfold Obligations.ResetMeetsTheInvariant
  exact ⟨reset_mem_wf, rfl, fun _ _ _ hmem => hmem⟩

end Sys2Proof.Machine
end

section
/-! The rules of the whole machine: 10_state.md R23 to R31 and 20_memory.md R54. -/

namespace Sys2Proof.Machine

/-! ## What a frame says of INTE and the ports -/

/-- INTE and the ports are unchanged. -/
def KeepsSystem (s t : State) : Prop := t.inte = s.inte ∧ KeepsPorts s t

theorem Frame.keepsSystem {regs : List Reg8} {stored : List Word} {s t : State} (h : Frame regs stored s t) :
    KeepsSystem s t := h.2.2

theorem KeepsSystem.refl (s : State) : KeepsSystem s s := ⟨rfl, rfl, rfl, rfl⟩

theorem KeepsSystem.trans {s t u : State} (h : KeepsSystem s t) (k : KeepsSystem t u) : KeepsSystem s u := by
  obtain ⟨hinte, hseam, hreads, hwrites⟩ := h
  obtain ⟨kinte, kseam, kreads, kwrites⟩ := k
  exact ⟨kinte.trans hinte, kseam.trans hseam, kreads.trans hreads, kwrites.trans hwrites⟩

/-- The instructions of 47_interrupt_io_halt.md that touch INTE or the ports. -/
def touchesSystem : Instr → Bool
  | .ei | .di | .inp _ | .outp _ => true
  | _ => false

/-! ## PC, SP, the flags, INTE and the ports under every instruction (R23, R24, R25, R31) -/

/-- Every part of the state outside the registers and memory is kept, but by the instructions listed for it. -/
structure KeepsListed (i : Instr) (s t : State) : Prop where
  pc : movesPc i = false → t.pc = s.pc
  sp : movesSp i = false → t.sp = s.sp
  flags : flagEffect i = .none → t.flags = s.flags
  system : touchesSystem i = false → KeepsSystem s t

/-- An update that keeps them all keeps those listed. -/
theorem KeepsListed.of_all {i : Instr} {s t : State} (hpc : t.pc = s.pc) (hsp : t.sp = s.sp)
    (hflags : t.flags = s.flags) (hsystem : KeepsSystem s t) : KeepsListed i s t :=
  ⟨fun _ => hpc, fun _ => hsp, fun _ => hflags, fun _ => hsystem⟩

theorem KeepsListed.refl (i : Instr) (s : State) : KeepsListed i s s := .of_all rfl rfl rfl (.refl s)

theorem KeepsListed.trans {i : Instr} {s t u : State} (h : KeepsListed i s t) (k : KeepsListed i t u) :
    KeepsListed i s u :=
  ⟨fun hi => (k.pc hi).trans (h.pc hi), fun hi => (k.sp hi).trans (h.sp hi), fun hi => (k.flags hi).trans (h.flags hi),
    fun hi => (h.system hi).trans (k.system hi)⟩

/-- An update of the flags by an instruction that may write them. -/
theorem KeepsListed.of_flags {i : Instr} {s t : State} (hi : flagEffect i ≠ .none) (hpc : t.pc = s.pc)
    (hsp : t.sp = s.sp) (hsystem : KeepsSystem s t) : KeepsListed i s t :=
  ⟨fun _ => hpc, fun _ => hsp, fun h => absurd h hi, fun _ => hsystem⟩

section
variable {i : Instr} (s : State)

theorem State.setOperand_keepsListed (x : Operand8) (v : Byte) : KeepsListed i s (s.setOperand x v) := by
  obtain ⟨_, hframe, hsp, hpc, hflags⟩ := s.setOperand_spec x v
  exact .of_all hpc hsp hflags hframe.keepsSystem

theorem State.countTo_keepsListed (hi : flagEffect i ≠ .none) (x : Operand8) (out : Byte × Bool) :
    KeepsListed i s (s.countTo x out) := by
  obtain ⟨_, _, _, _, hsp, hpc, hframe⟩ := s.countTo_spec x out
  exact .of_flags hi hpc hsp hframe.keepsSystem

theorem State.accumulate_keepsListed (hi : flagEffect i ≠ .none) (out : AluOut) :
    KeepsListed i s (s.accumulate out) := by
  obtain ⟨_, _, _, _, hsp, hpc, hframe⟩ := s.accumulate_spec out
  exact .of_flags hi hpc hsp hframe.keepsSystem

theorem State.accumulateLogic_keepsListed (hi : flagEffect i ≠ .none) (r : Byte) :
    KeepsListed i s (s.accumulateLogic r) := by
  obtain ⟨_, _, _, _, hsp, hpc, hframe⟩ := s.accumulateLogic_spec r
  exact .of_flags hi hpc hsp hframe.keepsSystem

theorem State.compareFlags_keepsListed (hi : flagEffect i ≠ .none) (x : Byte) :
    KeepsListed i s (s.compareFlags x) := by
  obtain ⟨_, _, _, hsp, hpc, hframe⟩ := s.compareFlags_spec x
  exact .of_flags hi hpc hsp hframe.keepsSystem

theorem State.rotateTo_keepsListed (hi : flagEffect i ≠ .none) (out : Byte × Bool) :
    KeepsListed i s (s.rotateTo out) := by
  obtain ⟨_, _, hsp, hpc, hframe⟩ := s.rotateTo_spec out
  exact .of_flags hi hpc hsp hframe.keepsSystem

theorem State.setPair_keepsListed {p : Pair} (hi : movesSp i = false → p ≠ .sp) (v : Word) :
    KeepsListed i s (s.setPair p v) := by
  obtain ⟨_, hsp, hpc, hflags, hframe⟩ := s.setPair_loads p v
  exact ⟨fun _ => hpc, fun h => hsp (hi h), fun _ => hflags, fun _ => hframe.keepsSystem⟩

theorem State.write16_keepsListed (addr v : Word) : KeepsListed i s (s.write16 addr v) := by
  obtain ⟨_, hframe, hsp, hpc, hflags⟩ := s.write16_spec addr v
  exact .of_all hpc hsp hflags hframe.keepsSystem

theorem State.push16_keepsListed (hi : movesSp i = true) (v : Word) : KeepsListed i s (s.push16 v) := by
  obtain ⟨_, hframe, _, hpc, hflags⟩ := s.push16_spec v
  exact ⟨fun _ => hpc, fun h => absurd (hi.symm.trans h) (by decide), fun _ => hflags, fun _ => hframe.keepsSystem⟩

/-- A transfer of control is listed for both PC and SP. -/
theorem KeepsListed.of_transfer {t : State} (hpc : movesPc i = true) (hsp : movesSp i = true)
    (hflags : t.flags = s.flags) (hsystem : KeepsSystem s t) : KeepsListed i s t :=
  ⟨fun h => absurd (hpc.symm.trans h) (by decide), fun h => absurd (hsp.symm.trans h) (by decide), fun _ => hflags,
    fun _ => hsystem⟩

theorem State.setPc_keepsListed (hi : movesPc i = true) (v : Word) : KeepsListed i s (s.setPc v) :=
  ⟨fun h => absurd (hi.symm.trans h) (by decide), fun _ => rfl, fun _ => rfl, fun _ => (Frame.setPc s v).keepsSystem⟩

theorem State.jumpIf_keepsListed (hi : movesPc i = true) (k : Cond) (target : Word) :
    KeepsListed i s (s.jumpIf k target) := by
  rcases s.jumpIf_cases k target with ⟨_, hjump⟩ | ⟨_, hjump⟩
  · exact hjump ▸ s.setPc_keepsListed hi target
  · exact hjump.symm ▸ .refl i s

theorem State.callTo_keepsListed (hpc : movesPc i = true) (hsp : movesSp i = true) (target : Word) :
    KeepsListed i s (s.callTo target) := by
  obtain ⟨_, hframe, _, _, hflags⟩ := s.callTo_spec target
  exact .of_transfer s hpc hsp hflags hframe.keepsSystem

theorem State.callIf_keepsListed (hpc : movesPc i = true) (hsp : movesSp i = true) (k : Cond) (target : Word) :
    KeepsListed i s (s.callIf k target) := by
  rcases s.callIf_cases k target with ⟨_, hcall⟩ | ⟨_, hcall⟩
  · exact hcall ▸ s.callTo_keepsListed hpc hsp target
  · exact hcall.symm ▸ .refl i s

theorem State.returnToCaller_keepsListed (hpc : movesPc i = true) (hsp : movesSp i = true) :
    KeepsListed i s s.returnToCaller :=
  .of_transfer s hpc hsp rfl ((Frame.setSp s (s.sp + 2)).trans (Frame.setPc _ _)).keepsSystem

theorem State.returnIf_keepsListed (hpc : movesPc i = true) (hsp : movesSp i = true) (k : Cond) :
    KeepsListed i s (s.returnIf k) := by
  rcases s.returnIf_cases k with ⟨_, hreturn⟩ | ⟨_, hreturn⟩
  · exact hreturn ▸ s.returnToCaller_keepsListed hpc hsp
  · exact hreturn.symm ▸ .refl i s

end

/-- POP is listed for SP, and POP PSW for the flags. -/
theorem pop_keepsListed (s : State) (p : StackPair) :
    KeepsListed (.pop p) s (s.pop16.2.setStackPair p s.pop16.1) := by
  obtain ⟨_, _, hpc, hframe, hlow⟩ := s.pop_spec p rfl
  refine ⟨fun _ => hpc, nofun, fun hflags => ?_, fun _ => hframe.keepsSystem⟩
  cases p with
  | psw => cases hflags
  | bc | de | hl => exact hlow.2

theorem exec_keepsListed {i : Instr} {s t : State} (h : exec i s = .next t) : KeepsListed i s t := by
  cases i with
  | mov dst src =>
    rw [exec_mov (mov_wf_of_exec h)] at h
    cases h
    exact s.setOperand_keepsListed dst _
  | mvi x d8 => cases h; exact s.setOperand_keepsListed x d8
  | inr x | dcr x => cases h; exact s.countTo_keepsListed (by nofun) x _
  | add x | adc x | sub x | sbb x => cases h; exact s.accumulate_keepsListed (by nofun) _
  | adi d8 | aci d8 | sui d8 | sbi d8 => cases h; exact s.accumulate_keepsListed (by nofun) _
  | daa => cases h; exact s.accumulate_keepsListed (by nofun) _
  | ana x | xra x | ora x => cases h; exact s.accumulateLogic_keepsListed (by nofun) _
  | ani d8 | xri d8 | ori d8 => cases h; exact s.accumulateLogic_keepsListed (by nofun) _
  | cmp x => cases h; exact s.compareFlags_keepsListed (by nofun) _
  | cpi d8 => cases h; exact s.compareFlags_keepsListed (by nofun) _
  | rlc | rrc | ral | rar => cases h; exact s.rotateTo_keepsListed (by nofun) _
  | stc | cmc => cases h; exact .of_flags (by nofun) rfl rfl (Frame.setCy s _).keepsSystem
  | cma => cases h; exact .of_all rfl rfl rfl (Frame.setReg s .a _).keepsSystem
  | ldax p => cases h; exact .of_all rfl rfl rfl (Frame.setReg s .a _).keepsSystem
  | lda a16 => cases h; exact .of_all rfl rfl rfl (Frame.setReg s .a _).keepsSystem
  | stax p => cases h; exact .of_all rfl rfl rfl (Frame.write8 s _ _).keepsSystem
  | sta a16 => cases h; exact .of_all rfl rfl rfl (Frame.write8 s _ _).keepsSystem
  | shld a16 => cases h; exact s.write16_keepsListed a16 s.hl
  | lhld a16 => cases h; exact s.setPair_keepsListed (p := .hl) (fun _ => by decide) _
  | lxi p d16 => cases h; exact s.setPair_keepsListed (by rintro hsp rfl; cases hsp) _
  | inx p | dcx p => cases h; exact s.setPair_keepsListed (by rintro hsp rfl; cases hsp) _
  | dad p =>
    cases h
    exact (s.setPair_keepsListed (p := .hl) (fun _ => by decide) _).trans
      (.of_flags (by nofun) rfl rfl (Frame.setCy _ _).keepsSystem)
  | xchg =>
    cases h
    exact (s.setPair_keepsListed (p := .hl) (fun _ => by decide) _).trans
      ((s.setPair .hl s.de).setPair_keepsListed (p := .de) (fun _ => by decide) _)
  | xthl =>
    cases h
    exact (s.write16_keepsListed s.sp s.hl).trans
      ((s.write16 s.sp s.hl).setPair_keepsListed (p := .hl) (fun _ => by decide) _)
  | sphl => cases h; exact ⟨fun _ => rfl, nofun, fun _ => rfl, fun _ => (Frame.setSp s _).keepsSystem⟩
  | push p => cases h; exact s.push16_keepsListed rfl _
  | pop p => cases h; exact pop_keepsListed s p
  | jmp a16 | undefJmp a16 => cases h; exact s.setPc_keepsListed rfl a16
  | pchl | hlt => cases h; exact s.setPc_keepsListed rfl _
  | jnz a16 | jz a16 | jnc a16 | jc a16 | jpo a16 | jpe a16 | jp a16 | jm a16 =>
    cases h
    exact s.jumpIf_keepsListed rfl _ a16
  | call a16 => cases h; exact s.callTo_keepsListed rfl rfl a16
  | rst n => cases h; exact s.callTo_keepsListed rfl rfl _
  | cnz a16 | cz a16 | cnc a16 | cc a16 | cpo a16 | cpe a16 | cp a16 | cm a16 =>
    cases h
    exact s.callIf_keepsListed rfl rfl _ a16
  | ret | undefRet => cases h; exact s.returnToCaller_keepsListed rfl rfl
  | rnz | rz | rnc | rc | rpo | rpe | rp | rm => cases h; exact s.returnIf_keepsListed rfl rfl _
  | nop => cases h; exact .refl _ s
  | undefNop hole => cases h; exact .refl _ s
  | ei | di => cases h; exact ⟨fun _ => rfl, fun _ => rfl, fun _ => rfl, nofun⟩
  | inp port =>
    cases h
    rcases s.portIn_cases port with ⟨_, hport⟩ | ⟨_, hport⟩
    · exact hport.symm ▸ .refl _ s
    · exact hport ▸ ⟨fun _ => rfl, fun _ => rfl, fun _ => rfl, nofun⟩
  | outp port =>
    cases h
    rcases s.portOut_cases port with ⟨_, hport⟩ | ⟨_, hport⟩
    · exact hport.symm ▸ .refl _ s
    · exact hport ▸ ⟨fun _ => rfl, fun _ => rfl, fun _ => rfl, nofun⟩

/-- Settles O52: the step runs the instruction with PC past it, and `exec_keepsListed` says what that leaves. -/
theorem onlyTheListedInstructionsMovePcAndSp : Obligations.OnlyTheListedInstructionsMovePcAndSp := by
  unfold Obligations.OnlyTheListedInstructionsMovePcAndSp
  intro s t i rest hdecode hstep
  rw [step_of_decode hdecode] at hstep
  obtain ⟨hpc, hsp, _, _⟩ := exec_keepsListed hstep
  refine ⟨fun hi => ?_, hsp⟩
  rw [hpc hi, State.setPc_pc, BitVec.toNat_add, BitVec.toNat_ofNat, Nat.add_mod_mod]

/-! ## The flag table (R25) -/

theorem exec_carryOnly {i : Instr} {s t : State} (h : exec i s = .next t) (hi : flagEffect i = .carryOnly) :
    { t.flags with cy := s.flags.cy } = s.flags := by
  cases i with
  | rlc | rrc | ral | rar | stc | cmc | dad p => cases h; rfl
  | pop p => cases p <;> cases hi
  | _ => cases hi

theorem exec_allButCarry {i : Instr} {s t : State} (h : exec i s = .next t) (hi : flagEffect i = .allButCarry) :
    t.flags.cy = s.flags.cy := by
  cases i with
  | inr x | dcr x => cases h; rfl
  | pop p => cases p <;> cases hi
  | _ => cases hi

theorem exec_logic {i : Instr} {s t : State} (h : exec i s = .next t) (hi : flagEffect i = .logic) :
    t.flags.cy = false ∧ t.flags.ac = false := by
  cases i with
  | ana x | xra x | ora x => cases h; exact ⟨rfl, rfl⟩
  | ani d8 | xri d8 | ori d8 => cases h; exact ⟨rfl, rfl⟩
  | pop p => cases p <;> cases hi
  | _ => cases hi

/-- Settles O51: a lemma for each row of the table, by the instructions of the row. -/
theorem flagTable : Obligations.FlagTable := by
  unfold Obligations.FlagTable
  refine fun i s t h => ⟨(exec_keepsListed h).flags, exec_carryOnly h, exec_allButCarry h, exec_logic h, ?stc, ?cmc⟩
  case stc => rintro rfl; cases h; rfl
  case cmc => rintro rfl; cases h; rfl

/-! ## The ports (R54, R352, R353) -/

theorem touchesSystem_cases {i : Instr} (hi : touchesSystem i = true) :
    i = .ei ∨ i = .di ∨ (∃ port, i = .inp port) ∨ ∃ port, i = .outp port := by
  cases i with
  | ei | di | inp port | outp port => simp
  | _ => cases hi

/-- The seam is constant; the records of the ports change at a wired IN and a wired OUT alone. -/
theorem exec_ports {i : Instr} {s t : State} (h : exec i s = .next t) :
    t.seam = s.seam ∧ (s.seam = .stub → KeepsPorts s t) ∧
      ((∀ port, i ≠ .inp port) → t.portReads = s.portReads) ∧
      ((∀ port, i ≠ .outp port) → t.portWrites = s.portWrites) := by
  cases hi : touchesSystem i with
  | false =>
    obtain ⟨_, hports⟩ := (exec_keepsListed h).system hi
    obtain ⟨hseam, hreads, hwrites⟩ := hports
    exact ⟨hseam, fun _ => ⟨hseam, hreads, hwrites⟩, fun _ => hreads, fun _ => hwrites⟩
  | true =>
    rcases touchesSystem_cases hi with rfl | rfl | ⟨port, rfl⟩ | ⟨port, rfl⟩
    · cases h; exact ⟨rfl, fun _ => ⟨rfl, rfl, rfl⟩, fun _ => rfl, fun _ => rfl⟩
    · cases h; exact ⟨rfl, fun _ => ⟨rfl, rfl, rfl⟩, fun _ => rfl, fun _ => rfl⟩
    · cases h
      rcases s.portIn_cases port with ⟨_, hport⟩ | ⟨hseam, hport⟩
      · rw [hport]
        exact ⟨rfl, fun _ => ⟨rfl, rfl, rfl⟩, fun _ => rfl, fun _ => rfl⟩
      · rw [hport]
        exact ⟨rfl, fun hstub => (nomatch hseam.symm.trans hstub), fun hne => absurd rfl (hne port), fun _ => rfl⟩
    · cases h
      rcases s.portOut_cases port with ⟨_, hport⟩ | ⟨hseam, hport⟩
      · rw [hport]
        exact ⟨rfl, fun _ => ⟨rfl, rfl, rfl⟩, fun _ => rfl, fun _ => rfl⟩
      · rw [hport]
        exact ⟨rfl, fun hstub => (nomatch hseam.symm.trans hstub), fun _ => rfl, fun hne => absurd rfl (hne port)⟩

/-- Settles O53: `exec_ports`; the fetch before it moves PC alone. -/
theorem onlyInAndOutTouchThePorts : Obligations.OnlyInAndOutTouchThePorts := by
  unfold Obligations.OnlyInAndOutTouchThePorts
  refine ⟨fun s t hstep => ?_, fun i s t h => ?_⟩
  · obtain ⟨i, _, _, hexec, _⟩ := step_cases hstep
    rw [State.fetchInstr_snd] at hexec
    obtain ⟨hseam, hstub, _⟩ := exec_ports hexec
    exact ⟨hseam, hstub⟩
  · obtain ⟨_, _, hreads, hwrites⟩ := exec_ports h
    exact ⟨hreads, hwrites⟩

/-! ## INTE is written by EI and DI alone (R31) -/

theorem exec_inte {i : Instr} {s t : State} (h : exec i s = .next t) :
    t.inte = if i = .ei then true else if i = .di then false else s.inte := by
  cases hi : touchesSystem i with
  | false =>
    obtain ⟨hinte, _⟩ := (exec_keepsListed h).system hi
    have hei : i ≠ .ei := by rintro rfl; cases hi
    have hdi : i ≠ .di := by rintro rfl; cases hi
    rw [if_neg hei, if_neg hdi, hinte]
  | true =>
    rcases touchesSystem_cases hi with rfl | rfl | ⟨port, rfl⟩ | ⟨port, rfl⟩
    · cases h; rfl
    · cases h; rfl
    · cases h
      rcases s.portIn_cases port with ⟨_, hport⟩ | ⟨_, hport⟩ <;> rw [hport] <;> rfl
    · cases h
      rcases s.portOut_cases port with ⟨_, hport⟩ | ⟨_, hport⟩ <;> rw [hport] <;> rfl

end Sys2Proof.Machine
end

section
/-! The statement of 10_state.md R31 that no instruction reads INTE, and the inverses of 95_test_vectors.md. -/

namespace Sys2Proof.Machine

/-! ## Every instruction with another INTE -/

section
variable (s : State) (b : Bool)

@[simp] theorem State.operand_setInte (x : Operand8) : (s.setInte b).operand x = s.operand x := by
  cases x with
  | reg r => exact s.reg_setInte b r
  | m => rfl
@[simp] theorem State.pair_setInte (p : Pair) : (s.setInte b).pair p = s.pair p := by cases p <;> rfl
@[simp] theorem State.stackPair_setInte (p : StackPair) : (s.setInte b).stackPair p = s.stackPair p := by
  cases p <;> rfl
@[simp] theorem State.indexAddr_setInte (p : IndexPair) : (s.setInte b).indexAddr p = s.indexAddr p := by
  cases p <;> rfl

@[simp] theorem State.read16_setInte (addr : Word) : (s.setInte b).read16 addr = s.read16 addr := rfl

@[simp] theorem State.write16_setInte (addr v : Word) :
    (s.setInte b).write16 addr v = (s.write16 addr v).setInte b := rfl
@[simp] theorem State.setReg_setInte (r : Reg8) (v : Byte) : (s.setInte b).setReg r v = (s.setReg r v).setInte b := by
  cases r <;> rfl
@[simp] theorem State.setOperand_setInte (x : Operand8) (v : Byte) :
    (s.setInte b).setOperand x v = (s.setOperand x v).setInte b := by
  cases x with
  | reg r => exact s.setReg_setInte b r v
  | m => rfl
@[simp] theorem State.countTo_setInte (x : Operand8) (out : Byte × Bool) :
    (s.setInte b).countTo x out = (s.countTo x out).setInte b := by
  rw [State.countTo, State.setOperand_setInte]
  rfl
@[simp] theorem State.setPair_setInte (p : Pair) (v : Word) :
    (s.setInte b).setPair p v = (s.setPair p v).setInte b := by
  cases p <;> rfl
@[simp] theorem State.setStackPair_setInte (p : StackPair) (v : Word) :
    (s.setInte b).setStackPair p v = (s.setStackPair p v).setInte b := by
  cases p <;> rfl
@[simp] theorem State.jumpIf_setInte (k : Cond) (target : Word) :
    (s.setInte b).jumpIf k target = (s.jumpIf k target).setInte b := by
  rw [State.jumpIf, State.jumpIf, State.setInte_flags]
  split <;> rfl
@[simp] theorem State.callIf_setInte (k : Cond) (target : Word) :
    (s.setInte b).callIf k target = (s.callIf k target).setInte b := by
  rw [State.callIf, State.callIf, State.setInte_flags]
  split <;> rfl
@[simp] theorem State.returnIf_setInte (k : Cond) : (s.setInte b).returnIf k = (s.returnIf k).setInte b := by
  rw [State.returnIf, State.returnIf, State.setInte_flags]
  split <;> rfl
@[simp] theorem State.portIn_setInte (port : Byte) : (s.setInte b).portIn port = (s.portIn port).setInte b := by
  simp only [State.portIn, State.setInte_seam]
  split <;> rfl
@[simp] theorem State.portOut_setInte (port : Byte) : (s.setInte b).portOut port = (s.portOut port).setInte b := by
  simp only [State.portOut, State.setInte_seam]
  split <;> rfl

end

/-- An instruction does the same with another INTE, but that EI and DI write it. -/
theorem exec_setInte {i : Instr} {s t : State} (b : Bool) (h : exec i s = .next t) :
    ∃ c, exec i (s.setInte b) = .next (t.setInte c) := by
  cases i with
  | ei => cases h; exact ⟨true, rfl⟩
  | di => cases h; exact ⟨false, rfl⟩
  | mov dst src =>
    have hwf := mov_wf_of_exec h
    rw [exec_mov hwf] at h ⊢
    cases h
    exact ⟨b, by rw [State.operand_setInte, State.setOperand_setInte]⟩
  | mvi x d8 => cases h; exact ⟨b, congrArg Host.Outcome.next (s.setOperand_setInte b x d8)⟩
  | inr x | dcr x =>
    cases h
    refine ⟨b, congrArg Host.Outcome.next ?_⟩
    rw [State.operand_setInte, State.countTo_setInte]
  | add x | adc x | sub x | sbb x | ana x | xra x | ora x | cmp x =>
    cases h
    refine ⟨b, congrArg Host.Outcome.next ?_⟩
    rw [State.operand_setInte]
    rfl
  | stax p | ldax p =>
    cases h
    refine ⟨b, congrArg Host.Outcome.next ?_⟩
    rw [State.indexAddr_setInte]
    rfl
  | push p =>
    cases h
    refine ⟨b, congrArg Host.Outcome.next ?_⟩
    rw [State.stackPair_setInte]
    rfl
  | pop p => cases h; exact ⟨b, congrArg Host.Outcome.next (s.pop16.2.setStackPair_setInte b p s.pop16.1)⟩
  | dad p =>
    cases h
    refine ⟨b, congrArg Host.Outcome.next ?_⟩
    rw [State.pair_setInte]
    rfl
  | inx p | dcx p =>
    cases h
    refine ⟨b, congrArg Host.Outcome.next ?_⟩
    rw [State.pair_setInte, State.setPair_setInte]
  | xthl =>
    cases h
    refine ⟨b, congrArg Host.Outcome.next ?_⟩
    rw [State.setInte_sp, State.hl_setInte, State.read16_setInte, State.write16_setInte, State.setPair_setInte]
  | lxi p d16 => cases h; exact ⟨b, congrArg Host.Outcome.next (s.setPair_setInte b p d16)⟩
  | jnz a16 | jz a16 | jnc a16 | jc a16 | jpo a16 | jpe a16 | jp a16 | jm a16 =>
    cases h
    exact ⟨b, congrArg Host.Outcome.next (s.jumpIf_setInte b _ a16)⟩
  | cnz a16 | cz a16 | cnc a16 | cc a16 | cpo a16 | cpe a16 | cp a16 | cm a16 =>
    cases h
    exact ⟨b, congrArg Host.Outcome.next (s.callIf_setInte b _ a16)⟩
  | rnz | rz | rnc | rc | rpo | rpe | rp | rm =>
    cases h
    exact ⟨b, congrArg Host.Outcome.next (s.returnIf_setInte b _)⟩
  | inp port => cases h; exact ⟨b, congrArg Host.Outcome.next (s.portIn_setInte b port)⟩
  | outp port => cases h; exact ⟨b, congrArg Host.Outcome.next (s.portOut_setInte b port)⟩
  | _ => cases h; exact ⟨b, rfl⟩

theorem State.fetchInstr_setInte (s : State) (b : Bool) :
    (s.setInte b).fetchInstr = (s.fetchInstr.1, s.fetchInstr.2.setInte b) := by
  apply Prod.ext
  · rw [State.fetchInstr_fst, State.fetchInstr_fst]
    rfl
  · rw [State.fetchInstr_snd, State.fetchInstr_snd]
    rfl

theorem step_setInte {s t : State} (b : Bool) (h : step s = .next t) :
    ∃ c, step (s.setInte b) = .next (t.setInte c) := by
  obtain ⟨i, rest, hfetch, hexec, _⟩ := step_cases h
  rw [step, State.fetchInstr_setInte, hfetch]
  exact exec_setInte b hexec

/-- Settles O50: `exec_inte` for the writers, `exec_setInte` and `step_setInte` for the readers. -/
theorem onlyEiAndDiTouchInte : Obligations.OnlyEiAndDiTouchInte := by
  unfold Obligations.OnlyEiAndDiTouchInte
  refine ⟨fun _ _ _ => rfl, fun i s t => exec_inte, fun i s t b h => ?exec, fun s t b h => ?step⟩
  case exec =>
    obtain ⟨c, hc⟩ := exec_setInte b h
    exact ⟨_, hc, rfl⟩
  case step =>
    obtain ⟨c, hc⟩ := step_setInte b h
    exact ⟨_, hc, rfl⟩

/-! ## Instructions that undo themselves or each other -/

theorem rrc8_rlc8 : ∀ a : Byte, (rrc8 (rlc8 a).1).1 = a := by decide
theorem rlc8_rrc8 : ∀ a : Byte, (rlc8 (rrc8 a).1).1 = a := by decide
theorem rar8_ral8 : ∀ (cy : Bool) (a : Byte), rar8 (ral8 a cy).1 (ral8 a cy).2 = (a, cy) := by decide
theorem ral8_rar8 : ∀ (cy : Bool) (a : Byte), ral8 (rar8 a cy).1 (rar8 a cy).2 = (a, cy) := by decide

theorem State.rotateTo_restores (s : State) (out : Byte × Bool) : (s.rotateTo out).rotateTo (s.a, s.flags.cy) = s := rfl

theorem exec_rlc (s : State) : exec .rlc s = .next (s.rotateTo (rlc8 s.a)) := rfl
theorem exec_rrc (s : State) : exec .rrc s = .next (s.rotateTo (rrc8 s.a)) := rfl
theorem exec_ral (s : State) : exec .ral s = .next (s.rotateTo (ral8 s.a s.flags.cy)) := rfl
theorem exec_rar (s : State) : exec .rar s = .next (s.rotateTo (rar8 s.a s.flags.cy)) := rfl

theorem exec_rar_after_ral (s : State) : exec .rar (s.rotateTo (ral8 s.a s.flags.cy)) = .next s := by
  obtain ⟨ha, hflags, _⟩ := s.rotateTo_spec (ral8 s.a s.flags.cy)
  rw [exec_rar, ha, hflags, rar8_ral8, State.rotateTo_restores]

theorem exec_ral_after_rar (s : State) : exec .ral (s.rotateTo (rar8 s.a s.flags.cy)) = .next s := by
  obtain ⟨ha, hflags, _⟩ := s.rotateTo_spec (rar8 s.a s.flags.cy)
  rw [exec_ral, ha, hflags, ral8_rar8, State.rotateTo_restores]

theorem exec_cma (s : State) : exec .cma s = .next (s.setReg .a (~~~s.a)) := rfl

theorem State.setReg_a_restores (s : State) (v : Byte) : (s.setReg .a v).setReg .a s.a = s := rfl

theorem exec_cma_after_cma (s : State) : exec .cma (s.setReg .a (~~~s.a)) = .next s := by
  rw [exec_cma, State.setReg_a, if_pos rfl, BitVec.not_not, State.setReg_a_restores]

theorem exec_cmc (s : State) : exec .cmc s = .next (s.setCy (!s.flags.cy)) := rfl

theorem State.setCy_restores (s : State) (v : Bool) : (s.setCy v).setCy s.flags.cy = s := rfl

theorem exec_cmc_after_cmc (s : State) : exec .cmc (s.setCy (!s.flags.cy)) = .next s := by
  rw [exec_cmc, State.setCy_flags, Bool.not_not, State.setCy_restores]

/-! The laws of writing pairs, as of any register file. -/

theorem State.setPair_setPair_same (s : State) (p : Pair) (v w : Word) :
    (s.setPair p v).setPair p w = s.setPair p w := by
  cases p <;> rfl

theorem State.setPair_hl_de_comm (s : State) (v w : Word) :
    (s.setPair .de v).setPair .hl w = (s.setPair .hl w).setPair .de v := rfl

theorem State.setPair_hl_self (s : State) : s.setPair .hl s.hl = s := by
  rw [State.setPair, State.highByte_hl, State.lowByte_hl]
  rfl

theorem State.setPair_de_self (s : State) : s.setPair .de s.de = s := by
  have hhigh : highByte s.de = s.d := highByte_joinBytes s.d s.e
  have hlow : lowByte s.de = s.e := lowByte_joinBytes s.d s.e
  rw [State.setPair, hhigh, hlow]
  rfl

theorem State.hl_setPair_de (s : State) (v : Word) : (s.setPair .de v).hl = s.hl := rfl

theorem exec_xchg (s : State) : exec .xchg s = .next ((s.setPair .hl s.de).setPair .de s.hl) := rfl

theorem exec_xchg_after_xchg (s : State) : exec .xchg ((s.setPair .hl s.de).setPair .de s.hl) = .next s := by
  rw [exec_xchg, State.de_setPair_de, State.hl_setPair_de, State.hl_setPair_hl, State.setPair_hl_de_comm,
    State.setPair_setPair_same, State.setPair_setPair_same, State.setPair_hl_self, State.setPair_de_self]

theorem State.write16_eq_setMem (s : State) (addr v : Word) : s.write16 addr v = s.setMem (s.write16 addr v).mem := rfl

theorem State.setMem_setMem (s : State) (m n : Memory) : (s.setMem m).setMem n = s.setMem n := rfl

/-- Writing a word and then the word that stood there is no change of a canonical memory. -/
theorem State.write16_restores {s : State} (hs : s.Inv) (addr v : Word) :
    (s.write16 addr v).write16 addr (s.read16 addr) = s := by
  have hreads : ∀ x, ((s.write16 addr v).write16 addr (s.read16 addr)).read8 x = s.read8 x := fun x => by
    rw [(State.write16_spec _ addr _).1, (State.write16_spec s addr v).1, State.read16, highByte_joinBytes,
      lowByte_joinBytes]
    split
    case isTrue hx => rw [hx]
    case isFalse =>
      split
      case isTrue hx => rw [hx]
      case isFalse => rfl
  have hmem : ((s.write16 addr v).write16 addr (s.read16 addr)).mem = s.mem :=
    Memory.eq_of_wf (State.mem_wf_write16 _ _ _ (State.mem_wf_write16 _ _ _ hs)) hs hreads
  rw [State.write16_eq_setMem (s.write16 addr v), hmem, State.write16_eq_setMem s, State.setMem_setMem,
    State.setMem_self]

theorem exec_xthl (s : State) : exec .xthl s = .next ((s.write16 s.sp s.hl).setPair .hl (s.read16 s.sp)) := rfl

theorem State.setPair_hl_sp (s : State) (v : Word) : (s.setPair .hl v).sp = s.sp := rfl

theorem State.write16_sp (s : State) (addr v : Word) : (s.write16 addr v).sp = s.sp := rfl

theorem State.write16_setPair_hl (s : State) (addr v w : Word) :
    (s.setPair .hl v).write16 addr w = (s.write16 addr w).setPair .hl v := rfl

theorem State.read16_setPair_hl (s : State) (addr v : Word) : (s.setPair .hl v).read16 addr = s.read16 addr := rfl

theorem exec_xthl_after_xthl {s : State} (hs : s.Inv) :
    exec .xthl ((s.write16 s.sp s.hl).setPair .hl (s.read16 s.sp)) = .next s := by
  rw [exec_xthl, State.setPair_hl_sp, State.write16_sp, State.hl_setPair_hl, State.read16_setPair_hl,
    State.read16_write16, State.write16_setPair_hl, State.write16_restores hs, State.setPair_setPair_same,
    State.setPair_hl_self]

/-- Settles O57: for each row the second instruction restores what the first one wrote. -/
theorem selfInverseInstructions : Obligations.SelfInverseInstructions := by
  unfold Obligations.SelfInverseInstructions
  intro s
  refine ⟨?rows, fun hs => ⟨_, exec_xthl s, exec_xthl_after_xthl hs⟩, ⟨_, _, exec_rlc s, exec_rrc _, rrc8_rlc8 s.a⟩,
    ⟨_, _, exec_rrc s, exec_rlc _, rlc8_rrc8 s.a⟩⟩
  case rows =>
    simp only [List.forall_mem_cons]
    exact ⟨⟨_, exec_cma s, exec_cma_after_cma s⟩, ⟨_, exec_cmc s, exec_cmc_after_cmc s⟩,
      ⟨_, exec_xchg s, exec_xchg_after_xchg s⟩, ⟨_, exec_ral s, exec_rar_after_ral s⟩,
      ⟨_, exec_rar s, exec_ral_after_rar s⟩, List.forall_mem_nil _⟩

end Sys2Proof.Machine
end
